-- ==== Sys2Proof/Word.lean ====
section
/-! DEFINITION. The plain value types of the spec (`00_scope.md` R8 to R11, `30_encoding.md` R113): bytes, 7-bit
addresses, 20-bit raw samples, numbers of the format `NUMERICS`, frames, decimals, 3-byte payloads. -/

namespace Sys2Proof

/-- A byte (R8). -/
abbrev Byte := BitVec 8

/-- A `RegisterAddress`, 7 bits (R65, `ADDR_BITS`). -/
abbrev Addr := BitVec 7

/-- A `RawSample20` (R18, `SAMPLE_BITS`). -/
abbrev Raw20 := BitVec 20

/-- An IEEE 754 binary64 number (R175), as its 64 bits. -/
abbrev F64 := BitVec 64

/-- A number of the format `NUMERICS` (R24, R113): of binary64, of the exact rational arithmetic that R175 allows, or of
another format, of which only a code is known. Log entry 17. -/
inductive Number
  | binary64 (bits : F64)
  | exact (value : Rat)
  | other (code : Nat)
  deriving DecidableEq, Repr, Inhabited

/-- A byte sequence handed to `Transfer` (R10, R19). -/
abbrev Frame := List Byte

/-- A duration, a number of ticks of an unspecified unit (R25: "no rule depends on the unit").
DESIGN CHOICE, safe: log entry 13. -/
abbrev Ticks := Nat

/-- A pin identifier (R25). -/
abbrev Pin := Nat

/-- The decimal number `num / 10 ^ exp` (R113: `range_g` and `odr` are decimal numbers).
DESIGN CHOICE, safe: log entry 14. -/
structure Decimal where
  num : Int
  exp : Nat
  deriving DecidableEq, Repr, Inhabited

/-- A 3-byte payload in wire order (R27, R68): high, middle, low. -/
structure Payload where
  high : Byte
  mid : Byte
  low : Byte
  deriving DecidableEq, Repr, Inhabited

/-- An axis, also the position of a FIFO read inside a triplet (R27, R102). -/
inductive Axis
  | x | y | z
  deriving DecidableEq, Repr, Inhabited

/-- A raw FIFO triplet: an ordered triple of 3-byte payloads (R27). -/
structure FifoTriplet where
  px : Payload
  py : Payload
  pz : Payload
  deriving DecidableEq, Repr, Inhabited

/-- A triple of signed integers, X, Y, Z (R194, R210). -/
structure Axes where
  x : Int
  y : Int
  z : Int
  deriving DecidableEq, Repr, Inhabited

/-- A triple of numbers in g, X, Y, Z (R212). -/
structure AxesG where
  x : Number
  y : Number
  z : Number
  deriving DecidableEq, Repr, Inhabited

end Sys2Proof
end

