-- ==== Sys2Proof/Config.lean ====
section
/-! DEFINITION. What an implementation fixes (`00_scope.md` R6, R7, `10_state.md` R25, R46), the values exchanged with
the host and with the collaborators (`20_memory.md` R60 to R63, `60_exceptions.md` R231), and the free values: opaque
constants that stand for what the spec leaves open. -/

namespace Sys2Proof

/-- The names of the device registers, in the order of the table of R100. -/
inductive RegName
  | devidAd | devidMst | partid | revid | status | fifoEntries | temp2 | temp1
  | xdata3 | xdata2 | xdata1 | ydata3 | ydata2 | ydata1 | zdata3 | zdata2 | zdata1 | fifoData
  | offsetXH | offsetXL | offsetYH | offsetYL | offsetZH | offsetZL
  | actEn | actThreshH | actThreshL | actCount | filter | fifoSamples | intMap | sync
  | range | powerCtl | selfTest | reset
  deriving DecidableEq, Repr, Inhabited

/-- `REGMAP`, the name to address table, a parameter (R6, R100). -/
structure RegMap where
  devidAd : Addr
  devidMst : Addr
  partid : Addr
  revid : Addr
  status : Addr
  fifoEntries : Addr
  temp2 : Addr
  temp1 : Addr
  xdata3 : Addr
  xdata2 : Addr
  xdata1 : Addr
  ydata3 : Addr
  ydata2 : Addr
  ydata1 : Addr
  zdata3 : Addr
  zdata2 : Addr
  zdata1 : Addr
  fifoData : Addr
  offsetXH : Addr
  offsetXL : Addr
  offsetYH : Addr
  offsetYL : Addr
  offsetZH : Addr
  offsetZL : Addr
  actEn : Addr
  actThreshH : Addr
  actThreshL : Addr
  actCount : Addr
  filter : Addr
  fifoSamples : Addr
  intMap : Addr
  sync : Addr
  range : Addr
  powerCtl : Addr
  selfTest : Addr
  reset : Addr
  deriving DecidableEq, Repr, Inhabited

/-- `NUMERICS`, "the floating-point format and multiplication of `to_g`", OPEN (R6, D11, U50). -/
inductive Numerics
  /-- IEEE 754 binary64, round to nearest even: the default (R175). -/
  | binary64
  /-- Exact rational arithmetic, the other reading that R175 allows a model. -/
  | exact
  /-- Any other format with its own conversions, multiplication and division: free values. Log entry 17. -/
  | other (format : Nat)
  deriving DecidableEq, Repr, Inhabited

/-- A row of `RANGE_TABLE` (R105). -/
structure RangeRow where
  key : Decimal
  code : BitVec 2
  deriving DecidableEq, Repr, Inhabited

/-- A row of `ODR_TABLE` (R106). -/
structure OdrRow where
  key : Decimal
  code : BitVec 4
  deriving DecidableEq, Repr, Inhabited

/-- A row of `HPF_TABLE` (R107). -/
structure HpfRow where
  key : Int
  code : BitVec 3
  deriving DecidableEq, Repr, Inhabited

/-- The parameters a model takes as arguments and no operation writes (R6, R7, R25, R46): the tables, `NUMERICS`, the three
configuration inputs, and the reference device's `FIFO_DEPTH`. -/
structure Config where
  regmap : RegMap
  rangeTable : List RangeRow
  odrTable : List OdrRow
  hpfTable : List HpfRow
  numerics : Numerics
  drdyPin : Option Pin
  pollInterval : Ticks
  readyTimeout : Ticks
  fifoDepth : Nat
  deriving DecidableEq, Repr, Inhabited

/-- What `Transfer` answers (R60): a response, or a failure with whatever information the transport gives (R235: "the
core passes on whatever information it was given"; the number is opaque to the core). -/
inductive TransferAnswer
  | respond (bytes : List Byte)
  | fail (information : Nat)
  deriving DecidableEq, Repr, Inhabited

/-- What `DigitalRead` answers (R62): the level, or a failure. -/
inductive ReadyAnswer
  | level (asserted : Bool)
  | fail (information : Nat)
  deriving DecidableEq, Repr, Inhabited

/-- One collaborator call with its answer: "a model records them as one list" (R74). -/
inductive Event
  | transfer (frame : Frame) (answer : TransferAnswer)
  | digitalRead (pin : Pin) (answer : ReadyAnswer)
  | sleep (duration : Ticks)
  deriving DecidableEq, Repr, Inhabited

/-- The three flags of `DeviceStatus` (R108, R216). -/
structure DeviceStatus where
  dataReady : Bool
  fifoFull : Bool
  fifoOverrange : Bool
  deriving DecidableEq, Repr, Inhabited

/-- The three identity bytes (R218). -/
structure DeviceId where
  analogDevices : Byte
  mems : Byte
  part : Byte
  deriving DecidableEq, Repr, Inhabited

/-- `RES`, the result value, "whose type depends on the operation" (R33, R112). -/
inductive Result
  | none
  | bytes (payload : List Byte)
  | raw (value : Raw20)
  | int (value : Int)
  | float (value : Number)
  | axes (value : Axes)
  | axesG (value : AxesG)
  | triplets (value : List FifoTriplet)
  | axesList (value : List Axes)
  | axesGList (value : List AxesG)
  | status (value : DeviceStatus)
  | ids (value : DeviceId)
  deriving DecidableEq, Repr, Inhabited

/-- Free value: the response of a device of which nothing is known, "the answer of an oracle that may depend on the
whole history of transactions" (R70), U23. Log entry 10. -/
opaque Config.freeTransfer : List Event → Frame → TransferAnswer

/-- Free value: the level of the ready line of such a device (R62, U32). Log entry 10. -/
opaque Config.freeReady : List Event → Pin → ReadyAnswer

/-- Free value: `RES` after an error, "unspecified when `ERR ≠ 0`" (R33, R240, U37), for the operation of that
number. Log entry 11. -/
opaque Config.freeResult : Nat → Result

/-- Free value: sign and 51 payload bits of a NaN that `fmul` or `fdiv` gives (R173, U41), for the operation of that
number and its two factors. Log entry 12. -/
opaque Config.freeNaN : Nat → F64 → F64 → BitVec 52

/-- Free value: the conversion of an exact number to the format of that number (U50). Log entry 17. -/
opaque Config.otherOfRat : Nat → Rat → Nat

/-- Free value: the multiplication of the format of that number (U50). Log entry 17. -/
opaque Config.otherMul : Nat → Nat → Nat → Nat

/-- Free value: the division of the format of that number (U50). Log entry 17. -/
opaque Config.otherDiv : Nat → Nat → Nat → Nat

/-- Free value: the result of an operation on numbers that are not of the format `NUMERICS`, which "cannot be presented"
(R113), for the operation of that number. Log entry 17. -/
opaque Config.freeNum : Nat → Number → Number → Number

end Sys2Proof
end

