-- ==== Sys2Proof/Machine/Tables.lean ====
section
/-! DEFINITION. The tables of the spec: `REGMAP` (default, R100), `RANGE_TABLE` (R105), `ODR_TABLE` (default, R106),
`HPF_TABLE` (R107), the reference device's initial register contents (R81), and the lookups. -/

namespace Sys2Proof

/-- The default `REGMAP` (R100). PRESUMED, unsafe (the spec takes every address from the device family): log entry 4. -/
def defaultRegMap : RegMap where
  devidAd := 0x00
  devidMst := 0x01
  partid := 0x02
  revid := 0x03
  status := 0x04
  fifoEntries := 0x05
  temp2 := 0x06
  temp1 := 0x07
  xdata3 := 0x08
  xdata2 := 0x09
  xdata1 := 0x0A
  ydata3 := 0x0B
  ydata2 := 0x0C
  ydata1 := 0x0D
  zdata3 := 0x0E
  zdata2 := 0x0F
  zdata1 := 0x10
  fifoData := 0x11
  offsetXH := 0x1E
  offsetXL := 0x1F
  offsetYH := 0x20
  offsetYL := 0x21
  offsetZH := 0x22
  offsetZL := 0x23
  actEn := 0x24
  actThreshH := 0x25
  actThreshL := 0x26
  actCount := 0x27
  filter := 0x28
  fifoSamples := 0x29
  intMap := 0x2A
  sync := 0x2B
  range := 0x2C
  powerCtl := 0x2D
  selfTest := 0x2E
  reset := 0x2F

/-- The address `REGMAP` gives a name. -/
def RegMap.addr (m : RegMap) : RegName → Addr
  | .devidAd => m.devidAd
  | .devidMst => m.devidMst
  | .partid => m.partid
  | .revid => m.revid
  | .status => m.status
  | .fifoEntries => m.fifoEntries
  | .temp2 => m.temp2
  | .temp1 => m.temp1
  | .xdata3 => m.xdata3
  | .xdata2 => m.xdata2
  | .xdata1 => m.xdata1
  | .ydata3 => m.ydata3
  | .ydata2 => m.ydata2
  | .ydata1 => m.ydata1
  | .zdata3 => m.zdata3
  | .zdata2 => m.zdata2
  | .zdata1 => m.zdata1
  | .fifoData => m.fifoData
  | .offsetXH => m.offsetXH
  | .offsetXL => m.offsetXL
  | .offsetYH => m.offsetYH
  | .offsetYL => m.offsetYL
  | .offsetZH => m.offsetZH
  | .offsetZL => m.offsetZL
  | .actEn => m.actEn
  | .actThreshH => m.actThreshH
  | .actThreshL => m.actThreshL
  | .actCount => m.actCount
  | .filter => m.filter
  | .fifoSamples => m.fifoSamples
  | .intMap => m.intMap
  | .sync => m.sync
  | .range => m.range
  | .powerCtl => m.powerCtl
  | .selfTest => m.selfTest
  | .reset => m.reset

/-- The read-only registers of R100's access column (0x00 to 0x11 in the default map). -/
def readOnlyNames : List RegName :=
  [.devidAd, .devidMst, .partid, .revid, .status, .fifoEntries, .temp2, .temp1, .xdata3, .xdata2, .xdata1,
   .ydata3, .ydata2, .ydata1, .zdata3, .zdata2, .zdata1, .fifoData]

/-- The registers the reference device lets a frame write (R83; 0x1E to 0x2F in the default map). -/
def writableNames : List RegName :=
  [.offsetXH, .offsetXL, .offsetYH, .offsetYL, .offsetZH, .offsetZL, .actEn, .actThreshH, .actThreshL, .actCount,
   .filter, .fifoSamples, .intMap, .sync, .range, .powerCtl, .selfTest, .reset]

/-- Every register of the map, in address order (R100). -/
def registerNames : List RegName := readOnlyNames ++ writableNames

/-- `documented(addr)`: `addr` is one of the addresses of `REGMAP` (R138). -/
def documented (m : RegMap) (a : Addr) : Bool := registerNames.any fun r => m.addr r == a

/-- `a` is the address of a register that the reference device lets a frame write (R83). -/
def writable (m : RegMap) (a : Addr) : Bool := writableNames.any fun r => m.addr r == a

/-- `ADDR_MAX`, the highest documented register address (R6). -/
def addrMax : Nat := 0x2F

/-- The reference device's initial byte at an address (R81), which is also what an unlisted address of its memory
reads as. PRESUMED, unsafe (the family's values): log entry 2. -/
def initialByte (m : RegMap) (a : Nat) : Byte :=
  if a = m.devidAd.toNat then 0xAD
  else if a = m.devidMst.toNat then 0x1D
  else if a = m.partid.toNat then 0xED
  else if a = m.revid.toNat then 0x01
  else if a = m.fifoSamples.toNat then 0x60
  else if a = m.range.toNat then 0x81
  else if a = m.powerCtl.toNat then 0x01
  else 0x00

/-- Two decimals are the same number: exact equality, no tolerance (R105, D42). -/
def Decimal.same (a b : Decimal) : Bool := a.num * 10 ^ b.exp == b.num * 10 ^ a.exp

/-- `RANGE_TABLE` (R105). -/
def defaultRangeTable : List RangeRow := [⟨⟨2048, 3⟩, 0b01⟩, ⟨⟨4096, 3⟩, 0b10⟩, ⟨⟨8192, 3⟩, 0b11⟩]

/-- The default `ODR_TABLE` (R106). PRESUMED, unsafe (the spec takes rates and codes from the device family): log
entry 4. -/
def defaultOdrTable : List OdrRow :=
  [⟨⟨4000, 0⟩, 0b0000⟩, ⟨⟨2000, 0⟩, 0b0001⟩, ⟨⟨1000, 0⟩, 0b0010⟩, ⟨⟨500, 0⟩, 0b0011⟩, ⟨⟨250, 0⟩, 0b0100⟩,
   ⟨⟨125, 0⟩, 0b0101⟩, ⟨⟨625, 1⟩, 0b0110⟩, ⟨⟨3125, 2⟩, 0b0111⟩, ⟨⟨15625, 3⟩, 0b1000⟩, ⟨⟨7813, 3⟩, 0b1001⟩,
   ⟨⟨3906, 3⟩, 0b1010⟩]

/-- `HPF_TABLE`: the code is the key, 0 to 6 (R107). -/
def defaultHpfTable : List HpfRow :=
  [⟨0, 0⟩, ⟨1, 1⟩, ⟨2, 2⟩, ⟨3, 3⟩, ⟨4, 4⟩, ⟨5, 5⟩, ⟨6, 6⟩]

/-- The row of a `RANGE_TABLE` whose key equals the operand (R153). -/
def lookupRange (t : List RangeRow) (d : Decimal) : Option RangeRow := t.find? fun r => r.key.same d

/-- The row of an `ODR_TABLE` whose key equals the operand (R153). -/
def lookupOdr (t : List OdrRow) (d : Decimal) : Option OdrRow := t.find? fun r => r.key.same d

/-- The row of an `HPF_TABLE` whose key equals the operand (R153). -/
def lookupHpf (t : List HpfRow) (h : Int) : Option HpfRow := t.find? fun r => r.key == h

/-- The configuration the model's reset state holds. The three inputs are DESIGN CHOICE, unsafe (the spec leaves them
OPEN): log entry 3. `NUMERICS` is the spec's own default (R175): log entry 17. -/
def defaultConfig : Config where
  regmap := defaultRegMap
  rangeTable := defaultRangeTable
  odrTable := defaultOdrTable
  hpfTable := defaultHpfTable
  numerics := .binary64
  drdyPin := some 0
  pollInterval := 1
  readyTimeout := 3
  fifoDepth := 96

end Sys2Proof
end

