-- ==== Sys2Proof/Syntax.lean ====
section
/-! DEFINITION. The operations of the core, one constructor per row of `spec/opcode_table.json` (`30_encoding.md` R112,
operand types R113; the frame rows R91, R92, R101), and a request as the host presents it. -/

namespace Sys2Proof

/-- The operations. An operand outside the type the spec gives it "cannot be presented" (R113). -/
inductive Instr
  /-- `encode_read(addr, length)`, R130. -/
  | encRd (addr : Addr) (length : Nat)
  /-- `encode_write(addr, value)`, R131. -/
  | encWr (addr : Addr) (value : Byte)
  /-- `decode_read_response(raw_bytes)`, R132. -/
  | decRsp (rawBytes : List Byte)
  /-- `reg_read(addr, length)`, R136. -/
  | regRd (addr : Addr) (length : Nat)
  /-- `reg_write(addr, value)`, R137. -/
  | regWr (addr : Addr) (value : Byte)
  /-- `start()`, R151. -/
  | start
  /-- `stop()`, R150. -/
  | stop
  /-- `set_range(range_g)`, R154. -/
  | setRange (rangeG : Decimal)
  /-- `set_filter(odr, hpf_corner)`, R155. -/
  | setFilter (odr : Decimal) (hpfCorner : Int)
  /-- `configure(range_g, odr, hpf)`, R158. -/
  | configure (rangeG : Decimal) (odr : Decimal) (hpf : Int)
  /-- `decode_raw20(byte_high, byte_mid, byte_low)`, R170. -/
  | decRaw20 (high : Byte) (mid : Byte) (low : Byte)
  /-- `sign_extend20(raw)`, R172. -/
  | sext20 (raw : Raw20)
  /-- `to_g(raw_signed, scale_factor)`, R173; `raw_signed` in -0x80000..0x7FFFF (`WellFormed`). -/
  | toG (rawSigned : Int) (scaleFactor : Number)
  /-- `wait_ready(timeout)`, R190. -/
  | waitReady (timeout : Ticks)
  /-- `read_axis_raw(axis)`, R192; the selector is a number on the command port (R102). -/
  | rdAxisRaw (selector : Byte)
  /-- `read_axis_triplet()`, R194. -/
  | rdAxisTriplet
  /-- `drain_fifo()`, R198. -/
  | drainFifo
  /-- `acquire_n_samples(n)`, R200. -/
  | acqN (n : Nat)
  /-- `read_triplet_raw()`, R210. -/
  | rdTripletRaw
  /-- `read_triplet_g()`, R212. -/
  | rdTripletG
  /-- `read_burst_raw(n)`, R213. -/
  | rdBurstRaw (n : Nat)
  /-- `read_burst_g(n)`, R214. -/
  | rdBurstG (n : Nat)
  /-- `status()`, R216. -/
  | status
  /-- `identify()`, R218. -/
  | identify
  /-- A read frame, R91. -/
  | frameRd (addr : Addr) (length : Nat)
  /-- A write frame, R92. -/
  | frameWr (addr : Addr) (value : Byte)
  /-- The frame of read(1) `DEVID_AD`, R101. -/
  | rd1DevidAd
  /-- The frame of read(1) `DEVID_MST`, R101. -/
  | rd1DevidMst
  /-- The frame of read(1) `PARTID`, R101. -/
  | rd1Partid
  /-- The frame of read(1) `STATUS`, R101. -/
  | rd1Status
  /-- The frame of read(3) `XDATA3`, R101. -/
  | rd3Xdata
  /-- The frame of read(3) `YDATA3`, R101. -/
  | rd3Ydata
  /-- The frame of read(3) `ZDATA3`, R101. -/
  | rd3Zdata
  /-- The frame of read(3) `FIFO_DATA`, R101. -/
  | rd3FifoData
  /-- The frame of write `FILTER`, R101. -/
  | wrFilter (value : Byte)
  /-- The frame of read(1) `RANGE`, R101. -/
  | rd1Range
  /-- The frame of write `RANGE`, R101. -/
  | wrRange (value : Byte)
  /-- The frame of read(1) `POWER_CTL`, R101. -/
  | rd1PowerCtl
  /-- The frame of write `POWER_CTL`, R101. -/
  | wrPowerCtl (value : Byte)
  deriving DecidableEq, Repr, Inhabited

/-- The two encoding spaces (`30_encoding.md`: "Two things are encoded"): operation codes on the command port, frames on
the wire. Their first bytes coincide, so a request says which it is. DESIGN CHOICE, safe: log entries 8, 9. -/
inductive Channel
  | command | wire
  deriving DecidableEq, Repr, Inhabited

/-- What the host presents: bytes on a channel. -/
structure Request where
  channel : Channel
  bytes : List Byte
  deriving DecidableEq, Repr, Inhabited

end Sys2Proof
end

