-- ==== Sys2Proof/Machine/State.lean ====
section
/-! DEFINITION. The state of the machine as plain data (`10_state.md` R20 to R47): the core's registers, the operation in
progress with its position in the pseudocode, the result port, the configuration inputs, the environment behind the three
collaborator ports (with the reference device of `20_memory.md` R80 to R86), the command port, and the state after reset
(`70_reset_and_hazards.md` R260, R261). -/

namespace Sys2Proof.Machine

/-- `fsm`, the sequencer state (R30). -/
inductive Fsm
  | idle | waitingReady | reading | draining | sequencing
  deriving DecidableEq, Repr, Inhabited

/-- The errors an operation can end with, the values of `ERR` (R231). -/
inductive ErrCode
  | ok | invalidArgument | unsupportedRange | unsupportedRate | unsupportedFilter | readyTimeout | transportError
  | scaleUndefined
  deriving DecidableEq, Repr, Inhabited

/-- The information of a raise (R15): what was wrong with the argument (R66, R130, R132, R136, R232), the offending value
(R234), what the transport said (R235) or that the response had the wrong length (R61). -/
inductive ErrInfo
  | none
  | length
  | address (addr : Addr)
  | empty
  | selector (selector : Byte)
  | code (code : Byte)
  | range (value : Decimal)
  | rate (value : Decimal)
  | filter (value : Int)
  | transport (information : Nat)
  | responseLength
  deriving DecidableEq, Repr, Inhabited

/-- One position of an operation's pseudocode: at most one collaborator call, with what follows it. The positions of the
configuration sequencer carry the names of R159. -/
inductive Micro
  /-- `TMP <- RegRead(POWER_CTL, 1)[0]` of a stop (R150). -/
  | stopRd
  /-- `RegWrite(POWER_CTL, TMP | 0x01)` (R150). -/
  | stopWr
  /-- `TMP <- RegRead(RANGE, 1)[0]` (R154). -/
  | rangeRd
  /-- `RegWrite(RANGE, (TMP & 0xFC) | code)` (R154). -/
  | rangeWr (code : BitVec 2)
  /-- `RegWrite(FILTER, (hc << 4) | oc)` (R155). -/
  | filterWr (hpf : BitVec 3) (odr : BitVec 4)
  /-- `TMP <- RegRead(POWER_CTL, 1)[0]` of a start (R151). -/
  | startRd
  /-- `RegWrite(POWER_CTL, TMP & 0xFE)` (R151). -/
  | startWr
  /-- `RANGE_SEL <- range_g ; SCALE <- scale_of(range_g)` (R156). -/
  | commitRange (key : Decimal)
  /-- `ODR_SEL <- odr ; HPF_SEL <- hpf_corner` (R156). -/
  | commitFilter (odr : Decimal) (hpf : Int)
  /-- `RegRead(addr, n)`, its payload kept (R136). -/
  | regRd (addr : Addr) (length : Nat)
  /-- `RegWrite(addr, v)` (R137). -/
  | regWr (addr : Addr) (value : Byte)
  /-- `RegRead(REGMAP.name, 1)[0]`, the byte kept (R216, R218). -/
  | byteRd (name : RegName)
  /-- The beginning of `wait_ready`: `ELAPSED <- 0` (R28, R250), without a pin too (DEDUCED: log entry 16), then the test of the
  pin (R190). -/
  | waitBegin (timeout : Ticks)
  /-- One sample of the ready line and the tests on it (R190). -/
  | poll (timeout : Ticks)
  /-- `Sleep(POLL_INTERVAL)` and the count of it (R190). -/
  | pollSleep (timeout : Ticks)
  /-- `fsm <- Reading` (R194). -/
  | enterReading
  /-- `decode_payload(RegRead(first_data_register(axis), 3))`, the value kept (R192, R194). -/
  | axisRd (axis : Axis)
  /-- The head of the drain loop: the X-slot read and the test of the empty marker (R198). -/
  | fifoX
  /-- The Y-slot read (R198). -/
  | fifoY
  /-- The Z-slot read; the triplet is appended (R198). -/
  | fifoZ
  /-- `ACC <- ACC ++ drain_fifo()`, the drain having ended (R200). -/
  | accumulate
  /-- The test of the loop of `acquire_n_samples` (R200). -/
  | acqTest (n : Nat)
  deriving DecidableEq, Repr, Inhabited

/-- What `RES` becomes when an operation returns (R112, R215). -/
inductive Finish
  | none
  /-- The payload of a register read (R136). -/
  | bytes
  /-- The three flags of the byte read (R216). -/
  | status
  /-- The three bytes read (R218). -/
  | identify
  /-- The one axis read (R192). -/
  | axis
  /-- The three axes read (R194). -/
  | axes
  /-- The three axes read, scaled (R212). -/
  | axesG (scale : Number)
  /-- The triplets of the drain (R198). -/
  | drained
  /-- The first `n` triplets of `ACC` (R200). -/
  | acquired (n : Nat)
  /-- Those, decoded (R213). -/
  | burst (n : Nat)
  /-- Those, decoded and scaled (R214). -/
  | burstG (n : Nat) (scale : Number)
  deriving DecidableEq, Repr, Inhabited

/-- `OP`: the operation in progress and its operands (R32), the position in its pseudocode as the list of what is still
to do (R30: "a model may keep it as a continuation"), and the values it holds between two collaborator calls. -/
structure Running where
  instr : Instr
  todo : List Micro
  finish : Finish
  bytes : List Byte
  axes : List Int
  out : List FifoTriplet
  deriving DecidableEq, Repr, Inhabited

/-- The device register space as a list of cells: addresses strictly rising, no entry equal to what the address reads as
when unlisted. -/
abbrev Memory := List Host.Cell

/-- The reference device (R81): its registers, its FIFO (head first), the level of its ready line, the frames it received
(oldest first). -/
structure RefDevice where
  mem : Memory
  fifo : List Payload
  drdy : Bool
  log : List Frame
  deriving DecidableEq, Repr, Inhabited

/-- How one `Transfer` call is answered. -/
inductive Cue
  /-- The device behind the transport answers. -/
  | device
  /-- This answer is given in the device's place: any device's response (R70), or a failure of a frame that did not reach
  the device (R283). -/
  | answer (given : TransferAnswer)
  /-- The frame reaches the device and the call fails all the same (R283). -/
  | deliveredButFails (information : Nat)
  deriving DecidableEq, Repr, Inhabited

/-- How one `DigitalRead` call is answered (R85). -/
inductive ReadyCue
  /-- The line has this level at this sample, and keeps it. -/
  | line (asserted : Bool)
  /-- The call fails. -/
  | fails (information : Nat)
  deriving DecidableEq, Repr, Inhabited

/-- The other side of the collaborator ports, and the record of the calls made (R74). Cues are consumed one a call; when
they are used up the reference device answers where it is attached, else an unknown device (the free values
`Config.freeTransfer`, `Config.freeReady`). The MODEL's own: log entries 2, 10. -/
structure Env where
  device : Option RefDevice
  cues : List Cue
  readyCues : List ReadyCue
  history : List Event
  deriving DecidableEq, Repr, Inhabited

/-- The state of the machine. Every field is plain data. -/
structure State where
  /-- The configuration inputs and tables, written by no operation (R25, R46). -/
  cfg : Config
  /-- `RANGE_SEL` (R21): the key of `RANGE_TABLE`. -/
  rangeSel : Option Decimal
  /-- `ODR_SEL` (R22): the key of `ODR_TABLE`. -/
  odrSel : Option Decimal
  /-- `HPF_SEL` (R23). -/
  hpfSel : Option Int
  /-- `SCALE` (R24). -/
  scale : Option Number
  /-- `ACC` (R26). -/
  acc : List FifoTriplet
  /-- `SLOT` (R27). -/
  slot : Axis
  /-- `XL` (R27). -/
  xl : Payload
  /-- `YL` (R27). -/
  yl : Payload
  /-- `ELAPSED` (R28). -/
  elapsed : Ticks
  /-- `TMP` (R29). -/
  tmp : Byte
  /-- `OP` (R32). -/
  op : Option Running
  /-- `fsm` (R30). -/
  fsm : Fsm
  /-- `ERR` (R33). -/
  err : ErrCode
  /-- The information of the last operation's raise (R15). -/
  info : ErrInfo
  /-- `WARN` (R33). -/
  warn : Bool
  /-- `RES` (R33). -/
  res : Result
  /-- The environment behind the collaborator ports. -/
  env : Env
  /-- The requests the host presents, the first to be taken first (R17, R246). The MODEL's own: log entry 6. -/
  port : List Request
  /-- The reset input (R260). The MODEL's own: log entry 22. -/
  resetIn : Bool
  /-- How many positions of an operation one step passes (R199: "a model gives the operation fuel"). The MODEL's own: log
  entry 5. -/
  fuel : Nat
  /-- The number of operations ended, which numbers the free values. The MODEL's own: log entry 11. -/
  freeSeq : Nat
  deriving DecidableEq, Repr, Inhabited

/-- Why the machine stops with a fault. -/
inductive Fault
  /-- Raised by `step` and by no operation: `fsm` says that an operation is in progress and `OP` holds none. No run from
  reset reaches such a state. Safe: the model stops where the spec describes no state. Log entry 24. -/
  | sequencerLost
  deriving DecidableEq, Repr

/-- Why an instruction or a request has no meaning. -/
inductive Refusal
  /-- An instruction that has no meaning in the model; raised by no arm. Safe. -/
  | notModelled (mnemonic : String)
  /-- Raised by `step` for a request whose bytes are no operation though its code is known, or no frame: such a request
  "cannot be presented" (R113, R133). Safe: the model stops on what the spec excludes. Log entry 25. -/
  | notPresentable
  deriving DecidableEq, Repr

/-- The reference device in its initial state (R81): nothing listed, FIFO empty, ready line low, no frame received. -/
def RefDevice.initial : RefDevice where
  mem := []
  fifo := []
  drdy := false
  log := []

/-- The environment at reset: the reference device attached, no cue, no call made. DESIGN CHOICE, unsafe (the spec leaves
the device's state unspecified, R47, R262): log entry 2. -/
def Env.initial : Env where
  device := some RefDevice.initial
  cues := []
  readyCues := []
  history := []

/-- A payload of zero bytes, the value the model names for `XL` and `YL` at reset (log entry 1). -/
def Payload.zero : Payload := ⟨0, 0, 0⟩

/-- The machine right after reset (R47, R261). `TMP`, `XL`, `YL`, `RES` are unspecified there: their values are DESIGN
CHOICE, unsafe: log entry 1. -/
def State.reset : State where
  cfg := defaultConfig
  rangeSel := none
  odrSel := none
  hpfSel := none
  scale := none
  acc := []
  slot := .x
  xl := Payload.zero
  yl := Payload.zero
  elapsed := 0
  tmp := 0
  op := none
  fsm := .idle
  err := .ok
  info := .none
  warn := false
  res := .none
  env := Env.initial
  port := []
  resetIn := false
  fuel := 64
  freeSeq := 0

end Sys2Proof.Machine
end

