-- ==== Sys2Proof/Machine/Wire.lean ====
section
/-! DEFINITION. The frames of the Register Protocol Codec as byte sequences (`30_encoding.md` R90 to R97): command byte,
read frame, write frame, the reading back of a frame, and the register values the core writes. -/

namespace Sys2Proof.Machine

/-- The command byte of a read, `(addr << 1) | 1` (R91, R96). -/
def readCommand (a : Addr) : Byte := (a.setWidth 8 <<< 1) ||| 1

/-- The command byte of a write, `(addr << 1) & 0xFE` (R92, R96). -/
def writeCommand (a : Addr) : Byte := (a.setWidth 8 <<< 1) &&& 0xFE

/-- The read frame: the command byte and `n` zero fillers (R91). -/
def readFrame (a : Addr) (n : Nat) : Frame := readCommand a :: List.replicate n 0

/-- The write frame: the command byte and the value (R92). -/
def writeFrame (a : Addr) (v : Byte) : Frame := [writeCommand a, v]

/-- What a frame asks for (R95). -/
inductive FrameRequest
  | read (addr : Addr) (length : Nat)
  | write (addr : Addr) (value : Byte)
  | invalid
  deriving DecidableEq, Repr

/-- Reading a frame back: total on byte sequences; the fillers of a read are not checked (R95). -/
def parseFrame : Frame → FrameRequest
  | [] => .invalid
  | c :: rest =>
    let a : Addr := (c >>> 1).setWidth 7
    if c.getLsbD 0 then
      if rest.length = 0 then .invalid else .read a rest.length
    else
      match rest with
      | [v] => .write a v
      | _ => .invalid

/-- The `RANGE` value: `(old & 0xFC) | range_code` (R97). -/
def rangeValue (old : Byte) (code : BitVec 2) : Byte := (old &&& 0xFC) ||| code.setWidth 8

/-- The `FILTER` value: `(hpf_code << 4) | odr_code` (R97). -/
def filterValue (hpf : BitVec 3) (odr : BitVec 4) : Byte := (hpf.setWidth 8 <<< 4) ||| odr.setWidth 8

/-- The `POWER_CTL` value that `stop` writes: `old | 0x01` (R97). -/
def stopValue (old : Byte) : Byte := old ||| 0x01

/-- The `POWER_CTL` value that `start` writes: `old & 0xFE` (R97). -/
def startValue (old : Byte) : Byte := old &&& 0xFE

end Sys2Proof.Machine
end

