-- ==== Sys2Proof/Machine/Flags.lean ====
section
/-! DEFINITION. The flags of the spec: the numbers of `ERR` (`60_exceptions.md` R231), the fields of the bytes the core
tests (`30_encoding.md` R98, R108), `busy` (R246), and the three ways the result port is written: a return, a raise
(R240), a warning (R237). -/

namespace Sys2Proof.Machine

/-- The number of an error on the result port (R231). -/
def ErrCode.number : ErrCode → Nat
  | .ok => 0
  | .invalidArgument => 1
  | .unsupportedRange => 2
  | .unsupportedRate => 3
  | .unsupportedFilter => 4
  | .readyTimeout => 5
  | .transportError => 6
  | .scaleUndefined => 7

/-- `ConfigurationError` is the set of the codes 2, 3, 4 (R231). -/
def ErrCode.configurationError (e : ErrCode) : Bool := decide (2 ≤ e.number) && decide (e.number ≤ 4)

/-- `STATUS` decode: bit 0 data-ready, bit 1 FIFO-full, bit 2 FIFO-overrange; the other bits are dropped (R108, R216). -/
def statusOf (s : Byte) : DeviceStatus := ⟨s.getLsbD 0, s.getLsbD 1, s.getLsbD 2⟩

/-- The FIFO-empty marker: bit 1 of the third byte (R98, R196). -/
def emptyMarker (p : Payload) : Bool := p.low.getLsbD 1

/-- The `busy` output, equal to `fsm ≠ Idle` (R246). -/
def State.busy (s : State) : Bool := decide (s.fsm ≠ .idle)

/-- The core at the start of an operation: `WARN` is cleared (R237). -/
def State.begin (s : State) : State := { s with warn := false }

/-- `warn NoReadySignalWarning` (R15, R237). -/
def State.setWarn (s : State) : State := { s with warn := true }

/-- `return v`: the operation ends with the result `v` and no error (R15, R33). -/
def State.deliver (s : State) (r : Result) : State :=
  { s with err := .ok, info := .none, res := r, fsm := .idle, op := none, freeSeq := s.freeSeq + 1 }

/-- `raise E(info)`: taking an error (R15, R240). `ERR` gets the code, `RES` is unspecified (a free value), `fsm` goes to
`Idle`, `OP` is released. Where it ends a drain, `SLOT` goes back to `X`, as it is whenever no drain is in progress (R27;
DEDUCED, safe: log entry 15). Nothing else changes (R241, R242). -/
def State.raise (s : State) (code : ErrCode) (info : ErrInfo) : State :=
  { s with err := code, info := info, res := Config.freeResult s.freeSeq, fsm := .idle, op := none,
           slot := if s.fsm = .draining then .x else s.slot, freeSeq := s.freeSeq + 1 }

end Sys2Proof.Machine
end

