-- ==== Sys2Proof/Machine/Operands.lean ====
section
/-! DEFINITION. The operand forms: an address and a length of the codec (`40_codec.md` R130 to R133), the axis selector
(`30_encoding.md` R102), the bytes of a payload. The table lookups of the decimal and integer keys stand in Tables. -/

namespace Sys2Proof.Machine

/-- A raise: its code and its information. -/
abbrev Raise := ErrCode × ErrInfo

/-- `encode_read(addr, length)` (R130). -/
def encodeRead (a : Addr) (n : Nat) : Except Raise Frame :=
  if n = 0 then .error (.invalidArgument, .length) else .ok (readFrame a n)

/-- `encode_write(addr, value)` (R131). -/
def encodeWrite (a : Addr) (v : Byte) : Frame := writeFrame a v

/-- `decode_read_response(raw_bytes)` (R132). -/
def decodeReadResponse : List Byte → Except Raise (List Byte)
  | [] => .error (.invalidArgument, .empty)
  | _ :: payload => .ok payload

/-- The axis of a selector, X = 0, Y = 1, Z = 2; no other is one (R102). -/
def axisOfSelector (b : Byte) : Option Axis :=
  match b.toNat with
  | 0 => some .x
  | 1 => some .y
  | 2 => some .z
  | _ => none

/-- The first data register of an axis (R102). -/
def firstDataRegister (m : RegMap) : Axis → Addr
  | .x => m.xdata3
  | .y => m.ydata3
  | .z => m.zdata3

/-- The first byte of a one-byte payload. -/
def firstByte (p : List Byte) : Byte := p.getD 0 0

/-- The three bytes of a 3-byte payload, in wire order (R171). -/
def payloadOf (p : List Byte) : Payload := ⟨p.getD 0 0, p.getD 1 0, p.getD 2 0⟩

end Sys2Proof.Machine
end

