-- ==== Sys2Proof/Machine/Device.lean ====
section
/-! DEFINITION. The device register space as memory, and the reference device of `20_memory.md` R80 to R86: what it answers
to a frame and what that changes in it. -/

namespace Sys2Proof.Machine

/-- The byte at an address: the listed one, else the initial one (R81). -/
def Memory.read (m : RegMap) (mem : Memory) (a : Nat) : Byte :=
  match mem.find? fun c => c.1 == a with
  | some c => c.2
  | none => initialByte m a

/-- The cells with the one at `a` put in its place. -/
def Memory.insert (a : Nat) (v : Byte) : Memory → Memory
  | [] => [(a, v)]
  | c :: rest =>
    if a < c.1 then (a, v) :: c :: rest
    else if a = c.1 then (a, v) :: rest
    else c :: Memory.insert a v rest

/-- The cells without the one at `a`. -/
def Memory.erase (a : Nat) (mem : Memory) : Memory := mem.filter fun c => !(c.1 == a)

/-- The memory with `v` at `a`, in canonical form. -/
def Memory.write (m : RegMap) (mem : Memory) (a : Nat) (v : Byte) : Memory :=
  if v = initialByte m a then Memory.erase a mem else Memory.insert a v mem

/-- Addresses strictly rising. -/
def Memory.sorted : Memory → Bool
  | [] => true
  | [_] => true
  | c :: d :: rest => decide (c.1 < d.1) && Memory.sorted (d :: rest)

/-- The canonical form: addresses strictly rising, all of them in 0x00..0x2F (R81), and no entry equal to what the address
reads as when unlisted. -/
def Memory.wf (m : RegMap) (mem : Memory) : Bool :=
  Memory.sorted mem && mem.all fun c => decide (c.1 ≤ addrMax) && decide (c.2 ≠ initialByte m c.1)

/-- The byte the reference device gives at an address of a multi-byte read: `reg` where the address is documented and at
most 0x2F, 0x00 elsewhere (R82). -/
def RefDevice.byteAt (m : RegMap) (d : RefDevice) (a : Nat) : Byte :=
  if a ≤ addrMax ∧ documented m (BitVec.ofNat 7 a) then Memory.read m d.mem a else 0x00

/-- The answer to a read frame that is not at `FIFO_DATA`: the address steps by one per byte (R82). -/
def RefDevice.readRegs (m : RegMap) (d : RefDevice) (a : Addr) (n : Nat) : List Byte :=
  0x00 :: (List.range n).map fun i => d.byteAt m (a.toNat + i)

/-- The device after a write frame: a writable register takes all 8 bits; any other write is ignored (R83). -/
def RefDevice.writeReg (m : RegMap) (d : RefDevice) (a : Addr) (v : Byte) : RefDevice :=
  if writable m a ∧ a.toNat ≤ addrMax then { d with mem := Memory.write m d.mem a.toNat v } else d

/-- The answer to a 3-byte read at `FIFO_DATA`: the head entry, removed, or the empty marker (R84). -/
def RefDevice.popFifo (d : RefDevice) : RefDevice × List Byte :=
  match d.fifo with
  | e :: rest => ({ d with fifo := rest }, [0x00, e.high, e.mid, e.low])
  | [] => (d, [0x00, 0x00, 0x00, 0x02])

/-- The ready line of the reference device at a level (R85). -/
def RefDevice.setDrdy (b : Bool) (d : RefDevice) : RefDevice := { d with drdy := b }

/-- The reference device takes a frame: the device after it and its response, or none where R83 and R84 call the frame a
harness error. -/
def RefDevice.receive (m : RegMap) (d : RefDevice) (f : Frame) : Option (RefDevice × List Byte) :=
  let d := { d with log := d.log ++ [f] }
  match parseFrame f with
  | .read a n =>
    if a = m.fifoData then (if n = 3 then some d.popFifo else none) else some (d, d.readRegs m a n)
  | .write a v => some (d.writeReg m a v, [0x00, 0x00])
  | .invalid => none

end Sys2Proof.Machine
end

