-- ==== Sys2Proof/Machine/Numerics.lean ====
section
/-! DEFINITION. The arithmetic of `NUMERICS` (`42_decoder.md` R173 to R175): IEEE 754 binary64 with round to nearest even
(`float`, `fmul`, `fdiv`), exact rationals, any other format; the scale factor, `to_g`, and the integer functions of the
Sample Decoder (R170 to R172). Every binary64 operation computes its exact rational result and rounds once (R175: "one
rounding per operation"). -/

namespace Sys2Proof.Machine

/-- A binary64 number taken apart: a finite number is `(-1)^sign * mant * 2^exp`. -/
inductive Unpacked
  | finite (sign : Bool) (mant : Nat) (exp : Int)
  | infinite (sign : Bool)
  | nan
  deriving DecidableEq, Repr

/-- The bits of a binary64 number read as sign, 11-bit exponent and 52-bit fraction (IEEE 754). -/
def unpack (b : F64) : Unpacked :=
  let sign := b.getLsbD 63
  let e : Nat := (b.toNat / 2 ^ 52) % 2 ^ 11
  let f : Nat := b.toNat % 2 ^ 52
  if e = 2047 then (if f = 0 then .infinite sign else .nan)
  else if e = 0 then .finite sign f (-1074)
  else .finite sign (2 ^ 52 + f) ((e : Int) - 1075)

/-- The sign bit in place. -/
def signBit (sign : Bool) : Nat := if sign then 2 ^ 63 else 0

/-- The infinity of a sign. -/
def infinity (sign : Bool) : F64 := BitVec.ofNat 64 (signBit sign + 2047 * 2 ^ 52)

/-- A quiet NaN with the given sign and payload bits, both unspecified by the spec (R173, U41). -/
def quietNaN (free : BitVec 52) : F64 :=
  BitVec.ofNat 64 (signBit (free.getLsbD 51) + 2047 * 2 ^ 52 + 2 ^ 51 + free.toNat % 2 ^ 51)

/-- `2^k` as a natural number, 1 for a negative `k`. -/
def pow2 (k : Int) : Nat := 2 ^ k.toNat

/-- The exponent of the last place kept when `num / den` is rounded: 53 significant bits, but never below that of the
subnormal numbers. -/
def lastPlace (num den : Nat) : Int :=
  let e := (num.log2 : Int) - (den.log2 : Int) - 53
  let q := (num * pow2 (-e)) / (den * pow2 e)
  max (if 2 ^ 53 ≤ q then e + 1 else e) (-1074)

/-- `n / d` rounded to the nearest natural number, a tie to the even one. -/
def roundEven (n d : Nat) : Nat :=
  let q := n / d
  let r := n % d
  if d < 2 * r ∨ (2 * r = d ∧ q % 2 = 1) then q + 1 else q

/-- The binary64 number nearest `(-1)^sign * num / den`, ties to even (`den > 0`). Adding the rounded significand to the
biased exponent field carries into the exponent where the significand rounds up to the next power of two. -/
def roundRat (sign : Bool) (num den : Nat) : F64 :=
  if num = 0 then BitVec.ofNat 64 (signBit sign)
  else
    let e := lastPlace num den
    let m := roundEven (num * pow2 (-e)) (den * pow2 e)
    let bits := (e + 1074).toNat * 2 ^ 52 + m
    if 2047 * 2 ^ 52 ≤ bits then infinity sign else BitVec.ofNat 64 (signBit sign + bits)

/-- `float(v)` of an integer (R173). -/
def floatOfInt (v : Int) : F64 := roundRat (decide (v < 0)) v.natAbs 1

/-- `float(d)` of a decimal: the binary64 number nearest the decimal key (R174). -/
def floatOfDecimal (d : Decimal) : F64 := roundRat (decide (d.num < 0)) d.num.natAbs (10 ^ d.exp)

/-- `fmul`: one binary64 multiplication with one rounding (R175); a NaN result carries free bits (R173). `k` numbers the
operation, for the free value. -/
def fmul (k : Nat) (a b : F64) : F64 :=
  match unpack a, unpack b with
  | .finite s m e, .finite s' m' e' => roundRat (s ^^ s') (m * m' * pow2 (e + e')) (pow2 (-(e + e')))
  | .infinite s, .finite s' m' _ => if m' = 0 then quietNaN (Config.freeNaN k a b) else infinity (s ^^ s')
  | .finite s m _, .infinite s' => if m = 0 then quietNaN (Config.freeNaN k a b) else infinity (s ^^ s')
  | .infinite s, .infinite s' => infinity (s ^^ s')
  | _, _ => quietNaN (Config.freeNaN k a b)

/-- `fdiv`: one binary64 division with one rounding (R174, R175). -/
def fdiv (k : Nat) (a b : F64) : F64 :=
  match unpack a, unpack b with
  | .finite s m e, .finite s' m' e' =>
    if m' = 0 then (if m = 0 then quietNaN (Config.freeNaN k a b) else infinity (s ^^ s'))
    else roundRat (s ^^ s') (m * pow2 (e - e')) (m' * pow2 (e' - e))
  | .infinite s, .finite s' _ _ => infinity (s ^^ s')
  | .finite s _ _, .infinite s' => BitVec.ofNat 64 (signBit (s ^^ s'))
  | _, _ => quietNaN (Config.freeNaN k a b)

/-- `float(v)` of an integer in the format `n` (R173). -/
def numOfInt (n : Numerics) (v : Int) : Number :=
  match n with
  | .binary64 => .binary64 (floatOfInt v)
  | .exact => .exact (v : Rat)
  | .other f => .other (Config.otherOfRat f (v : Rat))

/-- `float(d)` of a decimal in the format `n` (R174). -/
def numOfDecimal (n : Numerics) (d : Decimal) : Number :=
  match n with
  | .binary64 => .binary64 (floatOfDecimal d)
  | .exact => .exact (mkRat d.num (10 ^ d.exp))
  | .other f => .other (Config.otherOfRat f (mkRat d.num (10 ^ d.exp)))

/-- The multiplication of the format `n` (R6, R173). A number that is not of the format cannot be presented (R113, `takeNum`);
for a term that holds one all the same the product is a free value: log entry 17. -/
def numMul (n : Numerics) (k : Nat) (a b : Number) : Number :=
  match n, a, b with
  | .binary64, .binary64 a, .binary64 b => .binary64 (fmul k a b)
  | .exact, .exact a, .exact b => .exact (a * b)
  | .other f, .other a, .other b => .other (Config.otherMul f a b)
  | _, a, b => Config.freeNum k a b

/-- The division of the format `n` (R174). -/
def numDiv (n : Numerics) (k : Nat) (a b : Number) : Number :=
  match n, a, b with
  | .binary64, .binary64 a, .binary64 b => .binary64 (fdiv k a b)
  | .exact, .exact a, .exact b => .exact (a / b)
  | .other f, .other a, .other b => .other (Config.otherDiv f a b)
  | _, a, b => Config.freeNum k a b

/-- `scale_of(range_g)` as the expression is written: `fdiv(fmul(2.0, float(range_g)), 1048576.0)` (R174). -/
def scaleOf (n : Numerics) (rangeG : Decimal) : Number :=
  numDiv n 0 (numMul n 0 (numOfInt n 2) (numOfDecimal n rangeG)) (numOfInt n 1048576)

/-- `decode_raw20`: `(byte_high << 12) | (byte_mid << 4) | (byte_low >> 4)` (R170). -/
def decodeRaw20 (high mid low : Byte) : Raw20 :=
  (high.setWidth 20 <<< 12) ||| (mid.setWidth 20 <<< 4) ||| (low >>> 4).setWidth 20

/-- `sign_extend20`: the test is on bit 19 alone and the subtraction of exactly `0x100000` (R172). -/
def signExtend20 (raw : Raw20) : Int :=
  if raw &&& 0x80000 ≠ 0 then (raw.toNat : Int) - 0x100000 else raw.toNat

/-- `decode_payload(p)` (R171). -/
def decodePayload (p : Payload) : Int := signExtend20 (decodeRaw20 p.high p.mid p.low)

/-- `to_g(raw_signed, scale_factor) = fmul(float(raw_signed), scale_factor)` (R173). -/
def toG (n : Numerics) (k : Nat) (raw : Int) (scale : Number) : Number := numMul n k (numOfInt n raw) scale

/-- `decode_payload` on the three payloads of a FIFO triplet (R213). -/
def decodeTriplet (t : FifoTriplet) : Axes := ⟨decodePayload t.px, decodePayload t.py, decodePayload t.pz⟩

/-- `to_g` on the three components with one scale factor (R212, R214). -/
def axesToG (n : Numerics) (k : Nat) (scale : Number) (a : Axes) : AxesG :=
  ⟨toG n k a.x scale, toG n k a.y scale, toG n k a.z scale⟩

end Sys2Proof.Machine
end

