-- ==== Sys2Proof/Machine/Ops.lean ====
section
/-! DEFINITION. The named operations over the collaborator ports and the registers: `Transfer`, `DigitalRead`, `Sleep`
(`20_memory.md` R60 to R63), `RegRead`, `RegWrite` (R66, R67), the acceptance of an operation (`60_exceptions.md` R246),
and the reset event (`70_reset_and_hazards.md` R260). Taking an error (R240) is `State.raise` in Flags, beside the
return. -/

namespace Sys2Proof.Machine

/-- One more call in the record (R74). -/
def Env.record (e : Env) (ev : Event) : Env := { e with history := e.history ++ [ev] }

/-- The device's own answer to a frame, and the device after it. An unknown device's answer is free (R70). A frame that is
a harness error of the reference device gets a free answer, and the reference device no longer describes what stands
behind the transport: DESIGN CHOICE, safe: log entry 18. -/
def Env.deviceAnswer (m : RegMap) (e : Env) (f : Frame) : Option RefDevice × TransferAnswer :=
  match e.device with
  | none => (none, Config.freeTransfer e.history f)
  | some d =>
    match d.receive m f with
    | some (d', resp) => (some d', .respond resp)
    | none => (none, Config.freeTransfer e.history f)

/-- `Transfer(bytes_out)`: one bus transaction (R60). -/
def Env.transfer (m : RegMap) (e : Env) (f : Frame) : Env × TransferAnswer :=
  match e.cues with
  | [] =>
    let (d, a) := e.deviceAnswer m f
    ({ e with device := d }.record (.transfer f a), a)
  | .device :: cues =>
    let (d, a) := e.deviceAnswer m f
    ({ e with device := d, cues := cues }.record (.transfer f a), a)
  | .answer a :: cues => ({ e with cues := cues }.record (.transfer f a), a)
  | .deliveredButFails i :: cues =>
    let (d, _) := e.deviceAnswer m f
    ({ e with device := d, cues := cues }.record (.transfer f (.fail i)), .fail i)

/-- `DigitalRead(pin)`: one sample of the ready line (R62, R85). -/
def Env.digitalRead (e : Env) (p : Pin) : Env × ReadyAnswer :=
  match e.readyCues with
  | .line b :: cues =>
    ({ e with device := e.device.map (RefDevice.setDrdy b), readyCues := cues }.record
      (.digitalRead p (.level b)), .level b)
  | .fails i :: cues => ({ e with readyCues := cues }.record (.digitalRead p (.fail i)), .fail i)
  | [] =>
    let a := match e.device with
      | some d => .level d.drdy
      | none => Config.freeReady e.history p
    (e.record (.digitalRead p a), a)

/-- `Sleep(duration)`: it returns; the model has no time (R63, R191). -/
def Env.sleep (e : Env) (d : Ticks) : Env := e.record (.sleep d)

/-- `RegRead(addr, n)`: one bus transaction that gives `n` payload bytes (R66); a failure or a response of the wrong length
is `TransportError` (R60, R61). -/
def Env.regRead (m : RegMap) (e : Env) (a : Addr) (n : Nat) : Env × Except Raise (List Byte) :=
  match encodeRead a n with
  | .error r => (e, .error r)
  | .ok frame =>
    match e.transfer m frame with
    | (e', .fail i) => (e', .error (.transportError, .transport i))
    | (e', .respond resp) =>
      if resp.length = n + 1 then (e', decodeReadResponse resp) else (e', .error (.transportError, .responseLength))

/-- `RegWrite(addr, v)`: one bus transaction whose response is discarded but for its length, 2 (R67). -/
def Env.regWrite (m : RegMap) (e : Env) (a : Addr) (v : Byte) : Env × Except Raise Unit :=
  match e.transfer m (encodeWrite a v) with
  | (e', .fail i) => (e', .error (.transportError, .transport i))
  | (e', .respond resp) => if resp.length = 2 then (e', .ok ()) else (e', .error (.transportError, .responseLength))

/-- The core with another environment. -/
def State.withEnv (s : State) (e : Env) : State := { s with env := e }

/-- A register read inside an operation: `k` goes on with the payload, a failure ends the operation (R235). -/
def State.busRead (s : State) (a : Addr) (n : Nat) (k : List Byte → State → State) : State :=
  match s.env.regRead s.cfg.regmap a n with
  | (e, .ok p) => k p (s.withEnv e)
  | (e, .error r) => (s.withEnv e).raise r.1 r.2

/-- A register write inside an operation: `k` goes on, a failure ends the operation (R235). -/
def State.busWrite (s : State) (a : Addr) (v : Byte) (k : State → State) : State :=
  match s.env.regWrite s.cfg.regmap a v with
  | (e, .ok _) => k (s.withEnv e)
  | (e, .error r) => (s.withEnv e).raise r.1 r.2

/-- The command port takes an operation only when `fsm = Idle`; one presented while busy has no effect (R246). `WARN` is
cleared at the start of every operation (R237). -/
def State.accept (s : State) (k : State → State) : Host.Outcome State Fault Refusal :=
  if s.busy then .next s else .next (k s.begin)

/-- The reset event: every core register takes its reset value; no collaborator is called (R260). The configuration
inputs are constants (R261) and the device is not reset with the core (R262). -/
def State.applyReset (s : State) : State :=
  { State.reset with cfg := s.cfg, env := s.env, port := s.port, fuel := s.fuel, freeSeq := s.freeSeq }

end Sys2Proof.Machine
end

