-- ==== Sys2Proof/Machine/Sequencer.lean ====
section
/-! DEFINITION. The sequencer: what each position of an operation's pseudocode does (`Micro`), the value an operation
returns (`Finish`), and the running of an operation, position by position. The pseudocode of every operation, as a list of
positions, stands in the family files. -/

namespace Sys2Proof.Machine

/-- The core goes on with the operation at the position `r`. -/
def State.goOn (s : State) (r : Running) : State := { s with op := some r }

/-- The core in the sequencer state `f` (R12: `fsm <- S`). -/
def State.setFsm (s : State) (f : Fsm) : State := { s with fsm := f }

/-- `TMP <- v` (R29). -/
def State.setTmp (s : State) (v : Byte) : State := { s with tmp := v }

/-- `RANGE_SEL <- range_g ; SCALE <- scale_of(range_g)` (R156). -/
def State.commitRange (s : State) (k : Decimal) : State :=
  { s with rangeSel := some k, scale := some (scaleOf s.cfg.numerics k) }

/-- `ODR_SEL <- odr ; HPF_SEL <- hpf_corner` (R156). -/
def State.commitFilter (s : State) (odr : Decimal) (hpf : Int) : State := { s with odrSel := some odr, hpfSel := some hpf }

/-- `ELAPSED <- t` (R28). -/
def State.setElapsed (s : State) (t : Ticks) : State := { s with elapsed := t }

/-- `SLOT <- a` (R27). -/
def State.setSlot (s : State) (a : Axis) : State := { s with slot := a }

/-- `XL <- p` (R27). -/
def State.setXl (s : State) (p : Payload) : State := { s with xl := p }

/-- `YL <- p` (R27). -/
def State.setYl (s : State) (p : Payload) : State := { s with yl := p }

/-- `ACC <- l` (R26). -/
def State.setAcc (s : State) (l : List FifoTriplet) : State := { s with acc := l }

/-- What a position does; `r` is the operation with what follows the position still to do. -/
def Micro.run (m : Micro) (r : Running) (s : State) : State :=
  match m with
  | .stopRd | .startRd => s.busRead s.cfg.regmap.powerCtl 1 fun p s => (s.setTmp (firstByte p)).goOn r
  | .rangeRd => s.busRead s.cfg.regmap.range 1 fun p s => (s.setTmp (firstByte p)).goOn r
  | .stopWr => s.busWrite s.cfg.regmap.powerCtl (stopValue s.tmp) fun s => s.goOn r
  | .startWr => s.busWrite s.cfg.regmap.powerCtl (startValue s.tmp) fun s => s.goOn r
  | .rangeWr code => s.busWrite s.cfg.regmap.range (rangeValue s.tmp code) fun s => s.goOn r
  | .filterWr hpf odr => s.busWrite s.cfg.regmap.filter (filterValue hpf odr) fun s => s.goOn r
  | .commitRange key => (s.commitRange key).goOn r
  | .commitFilter odr hpf => (s.commitFilter odr hpf).goOn r
  | .regRd a n => s.busRead a n fun p s => s.goOn { r with bytes := p }
  | .regWr a v => s.busWrite a v fun s => s.goOn r
  | .byteRd name => s.busRead (s.cfg.regmap.addr name) 1 fun p s => s.goOn { r with bytes := r.bytes ++ [firstByte p] }
  | .waitBegin timeout =>
    let s := s.setElapsed 0
    match s.cfg.drdyPin with
    | none => ((s.withEnv (s.env.sleep timeout)).setWarn).goOn r
    | some _ => s.goOn { r with todo := .poll timeout :: r.todo }
  | .poll timeout =>
    match s.env.digitalRead (s.cfg.drdyPin.getD 0) with
    | (e, .fail i) => (s.withEnv e).raise .transportError (.transport i)
    | (e, .level true) => (s.withEnv e).goOn r
    | (e, .level false) =>
      if timeout ≤ s.elapsed then (s.withEnv e).raise .readyTimeout .none
      else (s.withEnv e).goOn { r with todo := .pollSleep timeout :: r.todo }
  | .pollSleep timeout =>
    ((s.withEnv (s.env.sleep s.cfg.pollInterval)).setElapsed (s.elapsed + s.cfg.pollInterval)).goOn
      { r with todo := .poll timeout :: r.todo }
  | .enterReading => (s.setFsm .reading).goOn r
  | .axisRd a =>
    s.busRead (firstDataRegister s.cfg.regmap a) 3 fun p s =>
      s.goOn { r with axes := r.axes ++ [decodePayload (payloadOf p)] }
  | .fifoX =>
    (s.setSlot .x).busRead s.cfg.regmap.fifoData 3 fun p s =>
      let s := s.setXl (payloadOf p)
      if emptyMarker (payloadOf p) then s.goOn r
      else s.goOn { r with todo := .fifoY :: .fifoZ :: .fifoX :: r.todo }
  | .fifoY => (s.setSlot .y).busRead s.cfg.regmap.fifoData 3 fun p s => (s.setYl (payloadOf p)).goOn r
  | .fifoZ =>
    (s.setSlot .z).busRead s.cfg.regmap.fifoData 3 fun p s =>
      s.goOn { r with out := r.out ++ [⟨s.xl, s.yl, payloadOf p⟩] }
  | .accumulate => (s.setAcc (s.acc ++ r.out)).goOn { r with out := [] }
  | .acqTest n =>
    if s.acc.length < n then s.goOn { r with todo := .fifoX :: .accumulate :: .acqTest n :: r.todo } else s.goOn r

/-- The value an operation returns, from what it holds and from `ACC`. -/
def Finish.result (r : Running) (acc : List FifoTriplet) (n : Numerics) (freeSeq : Nat) : Finish → Result
  | .none => .none
  | .bytes => .bytes r.bytes
  | .status => .status (statusOf (firstByte r.bytes))
  | .identify => .ids ⟨r.bytes.getD 0 0, r.bytes.getD 1 0, r.bytes.getD 2 0⟩
  | .axis => .int (r.axes.getD 0 0)
  | .axes => .axes ⟨r.axes.getD 0 0, r.axes.getD 1 0, r.axes.getD 2 0⟩
  | .axesG scale => .axesG (axesToG n freeSeq scale ⟨r.axes.getD 0 0, r.axes.getD 1 0, r.axes.getD 2 0⟩)
  | .drained => .triplets r.out
  | .acquired count => .triplets (acc.take count)
  | .burst count => .axesList ((acc.take count).map decodeTriplet)
  | .burstG count scale => .axesGList ((acc.take count).map fun t => axesToG n freeSeq scale (decodeTriplet t))

/-- The operation returns: its pseudocode is at its end. -/
def State.complete (s : State) (r : Running) : State := s.deliver (r.finish.result r s.acc s.cfg.numerics s.freeSeq)

/-- The core passes one position of the operation in progress. -/
def State.tick (s : State) : State :=
  match s.op with
  | none => s
  | some r =>
    match r.todo with
    | [] => s.complete r
    | m :: rest => m.run { r with todo := rest } s

/-- The core passes up to `k` positions of the operation in progress. -/
def State.run : Nat → State → State
  | 0, s => s
  | k + 1, s => State.run k s.tick

/-- The operation `i` is latched in `OP` (R32) with its pseudocode before it, in the sequencer state `f`, and runs as far
as the step's fuel allows; the steps after this one go on with it (R199: fuel, never a built-in bound). -/
def State.launch (s : State) (i : Instr) (f : Fsm) (todo : List Micro) (finish : Finish) : State :=
  State.run s.fuel ((s.setFsm f).goOn ⟨i, todo, finish, [], [], []⟩)

end Sys2Proof.Machine
end

