-- ==== Sys2Proof/Machine/Codec.lean ====
section
/-! DEFINITION. The Register Protocol Codec operations (`40_codec.md` R130 to R139) and the frame rows of the table
(`30_encoding.md` R91, R92, R101), each run as the access primitive it is the frame of (`20_memory.md` R66, R67;
DESIGN CHOICE, safe: log entry 9). -/

namespace Sys2Proof.Machine

/-- A register read of `n` bytes as a whole operation: `InvalidArgument` for `n = 0` before any transaction (R66, R130),
else one transaction. -/
def State.registerRead (s : State) (i : Instr) (a : Addr) (n : Nat) : State :=
  if n = 0 then s.raise .invalidArgument .length else s.launch i .sequencing [.regRd a n] .bytes

/-- A register write as a whole operation: one transaction (R67). -/
def State.registerWrite (s : State) (i : Instr) (a : Addr) (v : Byte) : State :=
  s.launch i .sequencing [.regWr a v] .none

/-- `encode_read(addr, length)` (R130): pure. -/
def execEncRd (a : Addr) (n : Nat) (s : State) : Host.Outcome State Fault Refusal :=
  s.accept fun s =>
    match encodeRead a n with
    | .ok frame => s.deliver (.bytes frame)
    | .error r => s.raise r.1 r.2

/-- `encode_write(addr, value)` (R131): pure. -/
def execEncWr (a : Addr) (v : Byte) (s : State) : Host.Outcome State Fault Refusal :=
  s.accept fun s => s.deliver (.bytes (encodeWrite a v))

/-- `decode_read_response(raw_bytes)` (R132): pure. -/
def execDecRsp (raw : List Byte) (s : State) : Host.Outcome State Fault Refusal :=
  s.accept fun s =>
    match decodeReadResponse raw with
    | .ok payload => s.deliver (.bytes payload)
    | .error r => s.raise r.1 r.2

/-- `reg_read(addr, length)` (R136): the length is tested before the address (R245). -/
def execRegRd (a : Addr) (n : Nat) (s : State) : Host.Outcome State Fault Refusal :=
  s.accept fun s =>
    if n = 0 then s.raise .invalidArgument .length
    else if documented s.cfg.regmap a then s.registerRead (.regRd a n) a n
    else s.raise .invalidArgument (.address a)

/-- `reg_write(addr, value)` (R137, R139). -/
def execRegWr (a : Addr) (v : Byte) (s : State) : Host.Outcome State Fault Refusal :=
  s.accept fun s =>
    if documented s.cfg.regmap a then s.registerWrite (.regWr a v) a v else s.raise .invalidArgument (.address a)

/-- A read frame (R91): `RegRead(addr, n)`. -/
def execFrameRd (a : Addr) (n : Nat) (s : State) : Host.Outcome State Fault Refusal :=
  s.accept fun s => s.registerRead (.frameRd a n) a n

/-- A write frame (R92): `RegWrite(addr, v)`. -/
def execFrameWr (a : Addr) (v : Byte) (s : State) : Host.Outcome State Fault Refusal :=
  s.accept fun s => s.registerWrite (.frameWr a v) a v

/-- The frame `[0x01, 0x00]` (R101). -/
def execRd1DevidAd (s : State) : Host.Outcome State Fault Refusal := s.accept fun s => s.registerRead .rd1DevidAd 0x00 1

/-- The frame `[0x03, 0x00]` (R101). -/
def execRd1DevidMst (s : State) : Host.Outcome State Fault Refusal := s.accept fun s => s.registerRead .rd1DevidMst 0x01 1

/-- The frame `[0x05, 0x00]` (R101). -/
def execRd1Partid (s : State) : Host.Outcome State Fault Refusal := s.accept fun s => s.registerRead .rd1Partid 0x02 1

/-- The frame `[0x09, 0x00]` (R101). -/
def execRd1Status (s : State) : Host.Outcome State Fault Refusal := s.accept fun s => s.registerRead .rd1Status 0x04 1

/-- The frame `[0x11, 0x00, 0x00, 0x00]` (R101). -/
def execRd3Xdata (s : State) : Host.Outcome State Fault Refusal := s.accept fun s => s.registerRead .rd3Xdata 0x08 3

/-- The frame `[0x17, 0x00, 0x00, 0x00]` (R101). -/
def execRd3Ydata (s : State) : Host.Outcome State Fault Refusal := s.accept fun s => s.registerRead .rd3Ydata 0x0B 3

/-- The frame `[0x1D, 0x00, 0x00, 0x00]` (R101). -/
def execRd3Zdata (s : State) : Host.Outcome State Fault Refusal := s.accept fun s => s.registerRead .rd3Zdata 0x0E 3

/-- The frame `[0x23, 0x00, 0x00, 0x00]` (R101). -/
def execRd3FifoData (s : State) : Host.Outcome State Fault Refusal :=
  s.accept fun s => s.registerRead .rd3FifoData 0x11 3

/-- The frame `[0x50, v]` (R101). -/
def execWrFilter (v : Byte) (s : State) : Host.Outcome State Fault Refusal :=
  s.accept fun s => s.registerWrite (.wrFilter v) 0x28 v

/-- The frame `[0x59, 0x00]` (R101). -/
def execRd1Range (s : State) : Host.Outcome State Fault Refusal := s.accept fun s => s.registerRead .rd1Range 0x2C 1

/-- The frame `[0x58, v]` (R101). -/
def execWrRange (v : Byte) (s : State) : Host.Outcome State Fault Refusal :=
  s.accept fun s => s.registerWrite (.wrRange v) 0x2C v

/-- The frame `[0x5B, 0x00]` (R101). -/
def execRd1PowerCtl (s : State) : Host.Outcome State Fault Refusal := s.accept fun s => s.registerRead .rd1PowerCtl 0x2D 1

/-- The frame `[0x5A, v]` (R101). -/
def execWrPowerCtl (v : Byte) (s : State) : Host.Outcome State Fault Refusal :=
  s.accept fun s => s.registerWrite (.wrPowerCtl v) 0x2D v

end Sys2Proof.Machine
end

