-- ==== Sys2Proof/Machine/Configuration.lean ====
section
/-! DEFINITION. The Configuration Manager operations (`41_config.md` R150 to R160): the bracket and the sequences of R159
as lists of positions, the lookups before the first transaction (R153), the order of the checks (R245). -/

namespace Sys2Proof.Machine

/-- The two transactions of `stop` (R150). -/
def stopSequence : List Micro := [.stopRd, .stopWr]

/-- The two transactions of `start` (R151). -/
def startSequence : List Micro := [.startRd, .startWr]

/-- The six transactions of `set_range` and the commit (R154, R156, R159). -/
def rangeSequence (row : RangeRow) : List Micro :=
  stopSequence ++ [.rangeRd, .rangeWr row.code] ++ startSequence ++ [.commitRange row.key]

/-- The five transactions of `set_filter` and the commit (R155, R156, R159). -/
def filterSequence (odr : OdrRow) (hpf : HpfRow) : List Micro :=
  stopSequence ++ [.filterWr hpf.code odr.code] ++ startSequence ++ [.commitFilter odr.key hpf.key]

/-- `start()` (R151). -/
def execStart (s : State) : Host.Outcome State Fault Refusal :=
  s.accept fun s => s.launch .start .sequencing startSequence .none

/-- `stop()` (R150). -/
def execStop (s : State) : Host.Outcome State Fault Refusal :=
  s.accept fun s => s.launch .stop .sequencing stopSequence .none

/-- `set_range(range_g)` (R154). -/
def execSetRange (r : Decimal) (s : State) : Host.Outcome State Fault Refusal :=
  s.accept fun s =>
    match lookupRange s.cfg.rangeTable r with
    | none => s.raise .unsupportedRange (.range r)
    | some row => s.launch (.setRange r) .sequencing (rangeSequence row) .none

/-- `set_filter(odr, hpf_corner)`: the rate is looked up first (R155). -/
def execSetFilter (odr : Decimal) (hpf : Int) (s : State) : Host.Outcome State Fault Refusal :=
  s.accept fun s =>
    match lookupOdr s.cfg.odrTable odr with
    | none => s.raise .unsupportedRate (.rate odr)
    | some orow =>
      match lookupHpf s.cfg.hpfTable hpf with
      | none => s.raise .unsupportedFilter (.filter hpf)
      | some hrow => s.launch (.setFilter odr hpf) .sequencing (filterSequence orow hrow) .none

/-- `configure(range_g, odr, hpf)`: range, rate, filter are looked up in this order before the first transaction; the two
parts keep their own brackets (R158). -/
def execConfigure (r odr : Decimal) (hpf : Int) (s : State) : Host.Outcome State Fault Refusal :=
  s.accept fun s =>
    match lookupRange s.cfg.rangeTable r with
    | none => s.raise .unsupportedRange (.range r)
    | some row =>
      match lookupOdr s.cfg.odrTable odr with
      | none => s.raise .unsupportedRate (.rate odr)
      | some orow =>
        match lookupHpf s.cfg.hpfTable hpf with
        | none => s.raise .unsupportedFilter (.filter hpf)
        | some hrow =>
          s.launch (.configure r odr hpf) .sequencing (rangeSequence row ++ filterSequence orow hrow) .none

end Sys2Proof.Machine
end

