-- ==== Sys2Proof/Machine/Acquisition.lean ====
section
/-! DEFINITION. The Acquisition Engine operations (`43_acquisition.md` R190 to R203). The loops of R202 are positions that
put themselves back (`Micro.run`): none has a bound of its own but the wait's timeout. -/

namespace Sys2Proof.Machine

/-- The pseudocode of `read_axis_triplet` (R194). -/
def tripletSequence (readyTimeout : Ticks) : List Micro :=
  [.waitBegin readyTimeout, .enterReading, .axisRd .x, .axisRd .y, .axisRd .z]

/-- The pseudocode of `acquire_n_samples(n)` (R200) with the value it ends with: `n = 0` makes no read and stays
`Idle`. -/
def State.acquire (s : State) (i : Instr) (n : Nat) (finish : Finish) : State :=
  if n = 0 then (s.setAcc []).complete ⟨i, [], finish, [], [], []⟩
  else (s.setAcc []).launch i .draining [.acqTest n] finish

/-- `wait_ready(timeout)` issued by the host (R190). -/
def execWaitReady (timeout : Ticks) (s : State) : Host.Outcome State Fault Refusal :=
  s.accept fun s => s.launch (.waitReady timeout) .waitingReady [.waitBegin timeout] .none

/-- `read_axis_raw(axis)` (R192): no wait (R193). -/
def execRdAxisRaw (selector : Byte) (s : State) : Host.Outcome State Fault Refusal :=
  s.accept fun s =>
    match axisOfSelector selector with
    | none => s.raise .invalidArgument (.selector selector)
    | some a => s.launch (.rdAxisRaw selector) .reading [.axisRd a] .axis

/-- `read_axis_triplet()` (R194, R195). -/
def execRdAxisTriplet (s : State) : Host.Outcome State Fault Refusal :=
  s.accept fun s => s.launch .rdAxisTriplet .waitingReady (tripletSequence s.cfg.readyTimeout) .axes

/-- `drain_fifo()` (R198). -/
def execDrainFifo (s : State) : Host.Outcome State Fault Refusal :=
  s.accept fun s => s.launch .drainFifo .draining [.fifoX] .drained

/-- `acquire_n_samples(n)` (R200). -/
def execAcqN (n : Nat) (s : State) : Host.Outcome State Fault Refusal :=
  s.accept fun s => s.acquire (.acqN n) n (.acquired n)

end Sys2Proof.Machine
end

