-- ==== Sys2Proof/Machine/Controller.lean ====
section
/-! DEFINITION. The Device Controller operations (`44_controller.md` R210 to R218). A scaled read checks `SCALE` first
(R211, R245) and scales with it; nothing writes `SCALE` while the read runs (R214), so the value checked is the value
used (log entry 21). -/

namespace Sys2Proof.Machine

/-- `read_triplet_raw()` = `read_axis_triplet()` (R210). -/
def execRdTripletRaw (s : State) : Host.Outcome State Fault Refusal :=
  s.accept fun s => s.launch .rdTripletRaw .waitingReady (tripletSequence s.cfg.readyTimeout) .axes

/-- `read_triplet_g()` (R212). -/
def execRdTripletG (s : State) : Host.Outcome State Fault Refusal :=
  s.accept fun s =>
    match s.scale with
    | none => s.raise .scaleUndefined .none
    | some scale => s.launch .rdTripletG .waitingReady (tripletSequence s.cfg.readyTimeout) (.axesG scale)

/-- `read_burst_raw(n)` (R213). -/
def execRdBurstRaw (n : Nat) (s : State) : Host.Outcome State Fault Refusal :=
  s.accept fun s => s.acquire (.rdBurstRaw n) n (.burst n)

/-- `read_burst_g(n)` (R214): the check of `SCALE` comes first, for `n = 0` too. -/
def execRdBurstG (n : Nat) (s : State) : Host.Outcome State Fault Refusal :=
  s.accept fun s =>
    match s.scale with
    | none => s.raise .scaleUndefined .none
    | some scale => s.acquire (.rdBurstG n) n (.burstG n scale)

/-- `status()` (R216). -/
def execStatus (s : State) : Host.Outcome State Fault Refusal :=
  s.accept fun s => s.launch .status .sequencing [.byteRd .status] .status

/-- `identify()` (R218). -/
def execIdentify (s : State) : Host.Outcome State Fault Refusal :=
  s.accept fun s => s.launch .identify .sequencing [.byteRd .devidAd, .byteRd .devidMst, .byteRd .partid] .identify

end Sys2Proof.Machine
end

