-- ==== Sys2Proof/Machine/Decoder.lean ====
section
/-! DEFINITION. The Sample Decoder operations (`42_decoder.md` R170 to R178): pure, no state but the result port. -/

namespace Sys2Proof.Machine

/-- `decode_raw20(byte_high, byte_mid, byte_low)` (R170). -/
def execDecRaw20 (high mid low : Byte) (s : State) : Host.Outcome State Fault Refusal :=
  s.accept fun s => s.deliver (.raw (decodeRaw20 high mid low))

/-- `sign_extend20(raw)` (R172). -/
def execSext20 (raw : Raw20) (s : State) : Host.Outcome State Fault Refusal :=
  s.accept fun s => s.deliver (.int (signExtend20 raw))

/-- `to_g(raw_signed, scale_factor)` (R173): the scale factor is the operand, `SCALE` is not read. -/
def execToG (raw : Int) (scale : Number) (s : State) : Host.Outcome State Fault Refusal :=
  s.accept fun s => s.deliver (.float (toG s.cfg.numerics s.freeSeq raw scale))

end Sys2Proof.Machine
end

