-- ==== Sys2Proof/Machine/Dispatch.lean ====
section
/-! DEFINITION. One arm per operation of `spec/opcode_table.json`, each a direct call of its meaning. -/

namespace Sys2Proof.Machine

def exec (i : Instr) (s : State) : Host.Outcome State Fault Refusal :=
  match i with
  | .encRd a n => Sys2Proof.Machine.execEncRd a n s
  | .encWr a v => Sys2Proof.Machine.execEncWr a v s
  | .decRsp raw => Sys2Proof.Machine.execDecRsp raw s
  | .regRd a n => Sys2Proof.Machine.execRegRd a n s
  | .regWr a v => Sys2Proof.Machine.execRegWr a v s
  | .start => Sys2Proof.Machine.execStart s
  | .stop => Sys2Proof.Machine.execStop s
  | .setRange r => Sys2Proof.Machine.execSetRange r s
  | .setFilter d h => Sys2Proof.Machine.execSetFilter d h s
  | .configure r d h => Sys2Proof.Machine.execConfigure r d h s
  | .decRaw20 high mid low => Sys2Proof.Machine.execDecRaw20 high mid low s
  | .sext20 raw => Sys2Proof.Machine.execSext20 raw s
  | .toG raw scale => Sys2Proof.Machine.execToG raw scale s
  | .waitReady t => Sys2Proof.Machine.execWaitReady t s
  | .rdAxisRaw selector => Sys2Proof.Machine.execRdAxisRaw selector s
  | .rdAxisTriplet => Sys2Proof.Machine.execRdAxisTriplet s
  | .drainFifo => Sys2Proof.Machine.execDrainFifo s
  | .acqN n => Sys2Proof.Machine.execAcqN n s
  | .rdTripletRaw => Sys2Proof.Machine.execRdTripletRaw s
  | .rdTripletG => Sys2Proof.Machine.execRdTripletG s
  | .rdBurstRaw n => Sys2Proof.Machine.execRdBurstRaw n s
  | .rdBurstG n => Sys2Proof.Machine.execRdBurstG n s
  | .status => Sys2Proof.Machine.execStatus s
  | .identify => Sys2Proof.Machine.execIdentify s
  | .frameRd a n => Sys2Proof.Machine.execFrameRd a n s
  | .frameWr a v => Sys2Proof.Machine.execFrameWr a v s
  | .rd1DevidAd => Sys2Proof.Machine.execRd1DevidAd s
  | .rd1DevidMst => Sys2Proof.Machine.execRd1DevidMst s
  | .rd1Partid => Sys2Proof.Machine.execRd1Partid s
  | .rd1Status => Sys2Proof.Machine.execRd1Status s
  | .rd3Xdata => Sys2Proof.Machine.execRd3Xdata s
  | .rd3Ydata => Sys2Proof.Machine.execRd3Ydata s
  | .rd3Zdata => Sys2Proof.Machine.execRd3Zdata s
  | .rd3FifoData => Sys2Proof.Machine.execRd3FifoData s
  | .wrFilter v => Sys2Proof.Machine.execWrFilter v s
  | .rd1Range => Sys2Proof.Machine.execRd1Range s
  | .wrRange v => Sys2Proof.Machine.execWrRange v s
  | .rd1PowerCtl => Sys2Proof.Machine.execRd1PowerCtl s
  | .wrPowerCtl v => Sys2Proof.Machine.execWrPowerCtl v s

end Sys2Proof.Machine
end

