-- ==== Sys2Proof/WellFormed.lean ====
section
/-! DEFINITION. Which terms of `Instr` can be presented to a core: the operand ranges that no Lean type carries
(`30_encoding.md` R113, R91), the format of numbers, which is the core's `NUMERICS` (R113, R175), and one term per frame
(the concrete frames of R101 are terms of their own). -/

namespace Sys2Proof

/-- `raw_signed` is in -0x80000..0x7FFFF (R113). -/
def signed20 (v : Int) : Bool := decide (-0x80000 ≤ v) && decide (v ≤ 0x7FFFF)

/-- The number is of the format `NUMERICS` (R113). -/
def Number.isOf : Numerics → Number → Bool
  | .binary64, .binary64 _ | .exact, .exact _ | .other _, .other _ => true
  | _, _ => false

/-- The read frames of R101, as address and length. -/
def concreteReads : List (Addr × Nat) :=
  [(0x00, 1), (0x01, 1), (0x02, 1), (0x04, 1), (0x08, 3), (0x0B, 3), (0x0E, 3), (0x11, 3), (0x2C, 1), (0x2D, 1)]

/-- The addresses of the write frames of R101. -/
def concreteWrites : List Addr := [0x28, 0x2C, 0x2D]

/-- The operands are in their ranges, a scale factor is of the format `n`, and a generic frame term is used only where R101 gives the frame no name of its
own. -/
def Instr.wellFormed (n : Numerics) : Instr → Bool
  | .toG raw f => signed20 raw && f.isOf n
  | .frameRd a len => decide (1 ≤ len) && !concreteReads.contains (a, len)
  | .frameWr a _ => !concreteWrites.contains a
  | .encRd _ _ | .encWr _ _ | .decRsp _ | .regRd _ _ | .regWr _ _ | .start | .stop | .setRange _ | .setFilter _ _
  | .configure _ _ _ | .decRaw20 _ _ _ | .sext20 _ | .waitReady _ | .rdAxisRaw _ | .rdAxisTriplet | .drainFifo | .acqN _
  | .rdTripletRaw | .rdTripletG | .rdBurstRaw _ | .rdBurstG _ | .status | .identify | .rd1DevidAd | .rd1DevidMst
  | .rd1Partid | .rd1Status | .rd3Xdata | .rd3Ydata | .rd3Zdata | .rd3FifoData | .wrFilter _ | .rd1Range | .wrRange _
  | .rd1PowerCtl | .wrPowerCtl _ => true

end Sys2Proof
end

