-- ==== Sys2Proof/Decode.lean ====
section
/-! DEFINITION. The decoder of requests, total on any bytes, rejecting by name, and the encoder. The operation codes are
those of `30_encoding.md` R112, the frames those of R91, R92, R101. The spec gives the operands of the command port no
byte layout ("there is no assembler", R114): the layout here is the model's, DESIGN CHOICE, safe: log entry 7.
Operands follow the code byte in the order of R112: an address one byte (bit 7 zero); a byte one byte; a natural number
or duration in groups of seven bits, least significant group first, bit 7 set on all but the last; an integer as the
natural number `2 v` or `-2 v - 1`; a decimal as its numerator then its power of ten; a byte sequence as its length then
the bytes; a 20-bit raw sample as three bytes, most significant first (R68); a number as the core's `NUMERICS` has it, so
that one of another format cannot be presented (R113): eight bytes, most significant first (binary64); the numerator, then
the denominator less one (exact); a code (any other format). -/

namespace Sys2Proof

/-- Why bytes are no request. -/
inductive DecodeError
  /-- No byte at all. -/
  | empty
  /-- An operation code that is not in the table of R112 (R232). -/
  | unknownCode (code : Byte)
  /-- The operands end early. -/
  | truncated
  /-- An address of more than 7 bits "cannot be presented" (R133). -/
  | addressTooWide
  /-- A `raw` above 0xFFFFF "cannot be presented" (R172). -/
  | rawTooWide
  /-- A `raw_signed` outside its range "cannot be presented" (R113). -/
  | rawSignedOutOfRange
  /-- Nonzero bytes after the operands. -/
  | trailingBytes
  /-- Bytes on the wire that are no frame (R95). -/
  | invalidFrame
  deriving DecidableEq, Repr

namespace Codec

/-- One byte, and the bytes after it. -/
def takeByte : List Byte → Except DecodeError (Byte × List Byte)
  | [] => .error .truncated
  | b :: rest => .ok (b, rest)

/-- A 7-bit address in one byte. -/
def takeAddr : List Byte → Except DecodeError (Addr × List Byte)
  | [] => .error .truncated
  | b :: rest => if b.getLsbD 7 then .error .addressTooWide else .ok (b.setWidth 7, rest)

/-- A natural number, seven bits a byte. -/
def takeNat : List Byte → Except DecodeError (Nat × List Byte)
  | [] => .error .truncated
  | b :: rest =>
    if b.toNat < 128 then .ok (b.toNat, rest)
    else
      match takeNat rest with
      | .ok (n, rest') => .ok (b.toNat - 128 + 128 * n, rest')
      | .error e => .error e

/-- The integer that a natural number stands for. -/
def intOfNat (n : Nat) : Int := if n % 2 = 0 then (n / 2 : Nat) else -((n / 2 : Nat) : Int) - 1

/-- An integer. -/
def takeInt (bs : List Byte) : Except DecodeError (Int × List Byte) := do
  let (n, rest) ← takeNat bs
  return (intOfNat n, rest)

/-- A decimal. -/
def takeDecimal (bs : List Byte) : Except DecodeError (Decimal × List Byte) := do
  let (num, rest) ← takeInt bs
  let (exp, rest) ← takeNat rest
  return (⟨num, exp⟩, rest)

/-- `n` bytes. -/
def takeCount : Nat → List Byte → Except DecodeError ((List Byte) × List Byte)
  | 0, bs => .ok ([], bs)
  | _ + 1, [] => .error .truncated
  | n + 1, b :: rest =>
    match takeCount n rest with
    | .ok (l, rest') => .ok (b :: l, rest')
    | .error e => .error e

/-- A byte sequence with its length in front. -/
def takeBytes (bs : List Byte) : Except DecodeError ((List Byte) × List Byte) := do
  let (n, rest) ← takeNat bs
  takeCount n rest

/-- The number that bytes spell, most significant first. -/
def bigEndian (bs : List Byte) : Nat := bs.foldl (fun n b => n * 256 + b.toNat) 0

/-- A 20-bit raw sample. -/
def takeRaw20 (bs : List Byte) : Except DecodeError (Raw20 × List Byte) := do
  let (l, rest) ← takeCount 3 bs
  if bigEndian l < 2 ^ 20 then return (BitVec.ofNat 20 (bigEndian l), rest) else throw .rawTooWide

/-- A binary64 number. -/
def takeF64 (bs : List Byte) : Except DecodeError (F64 × List Byte) := do
  let (l, rest) ← takeCount 8 bs
  return (BitVec.ofNat 64 (bigEndian l), rest)

/-- A number of the format `n` (R113). -/
def takeNum (n : Numerics) (bs : List Byte) : Except DecodeError (Number × List Byte) :=
  match n with
  | .binary64 => do
    let (f, bs) ← takeF64 bs
    return (.binary64 f, bs)
  | .exact => do
    let (num, bs) ← takeInt bs
    let (den, bs) ← takeNat bs
    return (.exact (mkRat num (den + 1)), bs)
  | .other _ => do
    let (c, bs) ← takeNat bs
    return (.other c, bs)

/-- An operation, when only zero bytes are left over. -/
def whole (i : Instr) (rest : List Byte) : Except DecodeError Instr :=
  if rest.all (· == 0) then .ok i else .error .trailingBytes

end Codec

open Codec

/-- The operation of a command-port request to a core of format `n`: the code byte (R112), then the operands. -/
def decodeCommand (n : Numerics) : List Byte → Except DecodeError Instr
  | [] => .error .empty
  | code :: bs =>
    match code.toNat with
    | 0x01 => do
      let (a, bs) ← takeAddr bs
      let (len, bs) ← takeNat bs
      whole (.encRd a len) bs
    | 0x02 => do
      let (a, bs) ← takeAddr bs
      let (v, bs) ← takeByte bs
      whole (.encWr a v) bs
    | 0x03 => do
      let (l, bs) ← takeBytes bs
      whole (.decRsp l) bs
    | 0x04 => do
      let (a, bs) ← takeAddr bs
      let (len, bs) ← takeNat bs
      whole (.regRd a len) bs
    | 0x05 => do
      let (a, bs) ← takeAddr bs
      let (v, bs) ← takeByte bs
      whole (.regWr a v) bs
    | 0x10 => whole .start bs
    | 0x11 => whole .stop bs
    | 0x12 => do
      let (d, bs) ← takeDecimal bs
      whole (.setRange d) bs
    | 0x13 => do
      let (d, bs) ← takeDecimal bs
      let (h, bs) ← takeInt bs
      whole (.setFilter d h) bs
    | 0x14 => do
      let (r, bs) ← takeDecimal bs
      let (d, bs) ← takeDecimal bs
      let (h, bs) ← takeInt bs
      whole (.configure r d h) bs
    | 0x20 => do
      let (h, bs) ← takeByte bs
      let (m, bs) ← takeByte bs
      let (l, bs) ← takeByte bs
      whole (.decRaw20 h m l) bs
    | 0x21 => do
      let (r, bs) ← takeRaw20 bs
      whole (.sext20 r) bs
    | 0x22 => do
      let (r, bs) ← takeInt bs
      let (f, bs) ← takeNum n bs
      if signed20 r then whole (.toG r f) bs else throw .rawSignedOutOfRange
    | 0x30 => do
      let (t, bs) ← takeNat bs
      whole (.waitReady t) bs
    | 0x31 => do
      let (a, bs) ← takeByte bs
      whole (.rdAxisRaw a) bs
    | 0x32 => whole .rdAxisTriplet bs
    | 0x33 => whole .drainFifo bs
    | 0x34 => do
      let (k, bs) ← takeNat bs
      whole (.acqN k) bs
    | 0x40 => whole .rdTripletRaw bs
    | 0x41 => whole .rdTripletG bs
    | 0x42 => do
      let (k, bs) ← takeNat bs
      whole (.rdBurstRaw k) bs
    | 0x43 => do
      let (k, bs) ← takeNat bs
      whole (.rdBurstG k) bs
    | 0x44 => whole .status bs
    | 0x45 => whole .identify bs
    | _ => .error (.unknownCode code)

/-- The term of a read frame: its own where R101 names the frame. -/
def readInstr (a : Addr) (n : Nat) : Instr :=
  match a.toNat, n with
  | 0x00, 1 => .rd1DevidAd
  | 0x01, 1 => .rd1DevidMst
  | 0x02, 1 => .rd1Partid
  | 0x04, 1 => .rd1Status
  | 0x08, 3 => .rd3Xdata
  | 0x0B, 3 => .rd3Ydata
  | 0x0E, 3 => .rd3Zdata
  | 0x11, 3 => .rd3FifoData
  | 0x2C, 1 => .rd1Range
  | 0x2D, 1 => .rd1PowerCtl
  | _, _ => .frameRd a n

/-- The term of a write frame: its own where R101 names the frame. -/
def writeInstr (a : Addr) (v : Byte) : Instr :=
  match a.toNat with
  | 0x28 => .wrFilter v
  | 0x2C => .wrRange v
  | 0x2D => .wrPowerCtl v
  | _ => .frameWr a v

/-- The operation of a frame (R95, R101). -/
def decodeFrame (f : Frame) : Except DecodeError Instr :=
  match Machine.parseFrame f with
  | .read a n => .ok (readInstr a n)
  | .write a v => .ok (writeInstr a v)
  | .invalid => .error .invalidFrame

/-- The operation of a request to a core whose `NUMERICS` is `n`. -/
def decode (n : Numerics) (r : Request) : Except DecodeError Instr :=
  match r.channel with
  | .command => decodeCommand n r.bytes
  | .wire => decodeFrame r.bytes

namespace Codec

/-- A natural number in groups of seven bits; `fuel` is at least the number of groups less one. -/
def putNatFuel : Nat → Nat → List Byte
  | 0, n => [BitVec.ofNat 8 n]
  | fuel + 1, n => if n < 128 then [BitVec.ofNat 8 n] else BitVec.ofNat 8 (n % 128 + 128) :: putNatFuel fuel (n / 128)

/-- A natural number. -/
def putNat (n : Nat) : List Byte := putNatFuel n.log2 n

/-- The natural number that stands for an integer. -/
def natOfInt (v : Int) : Nat := if 0 ≤ v then 2 * v.toNat else 2 * (-v).toNat - 1

/-- An integer. -/
def putInt (v : Int) : List Byte := putNat (natOfInt v)

/-- A decimal. -/
def putDecimal (d : Decimal) : List Byte := putInt d.num ++ putNat d.exp

/-- An address. -/
def putAddr (a : Addr) : Byte := a.setWidth 8

/-- A byte sequence. -/
def putBytes (l : List Byte) : List Byte := putNat l.length ++ l

/-- A 20-bit raw sample, most significant byte first. -/
def putRaw20 (r : Raw20) : List Byte := [r.extractLsb' 16 8 &&& 0x0F, r.extractLsb' 8 8, r.extractLsb' 0 8]

/-- A binary64 number, most significant byte first. -/
def putF64 (f : F64) : List Byte :=
  [f.extractLsb' 56 8, f.extractLsb' 48 8, f.extractLsb' 40 8, f.extractLsb' 32 8, f.extractLsb' 24 8, f.extractLsb' 16 8,
   f.extractLsb' 8 8, f.extractLsb' 0 8]

/-- A number. -/
def putNum : Number → List Byte
  | .binary64 f => putF64 f
  | .exact q => putInt q.num ++ putNat (q.den - 1)
  | .other c => putNat c

/-- A command-port request. -/
def command (code : Byte) (operands : List Byte) : Request := ⟨.command, code :: operands⟩

/-- A frame on the wire. -/
def wire (f : Frame) : Request := ⟨.wire, f⟩

end Codec

/-- The request that stands for an operation: its code (R112) and operands, or its frame (R91, R92, R101). -/
def encode : Instr → Request
  | .encRd a n => command 0x01 (putAddr a :: putNat n)
  | .encWr a v => command 0x02 [putAddr a, v]
  | .decRsp l => command 0x03 (putBytes l)
  | .regRd a n => command 0x04 (putAddr a :: putNat n)
  | .regWr a v => command 0x05 [putAddr a, v]
  | .start => command 0x10 []
  | .stop => command 0x11 []
  | .setRange r => command 0x12 (putDecimal r)
  | .setFilter d h => command 0x13 (putDecimal d ++ putInt h)
  | .configure r d h => command 0x14 (putDecimal r ++ (putDecimal d ++ putInt h))
  | .decRaw20 h m l => command 0x20 [h, m, l]
  | .sext20 r => command 0x21 (putRaw20 r)
  | .toG r f => command 0x22 (putInt r ++ putNum f)
  | .waitReady t => command 0x30 (putNat t)
  | .rdAxisRaw a => command 0x31 [a]
  | .rdAxisTriplet => command 0x32 []
  | .drainFifo => command 0x33 []
  | .acqN n => command 0x34 (putNat n)
  | .rdTripletRaw => command 0x40 []
  | .rdTripletG => command 0x41 []
  | .rdBurstRaw n => command 0x42 (putNat n)
  | .rdBurstG n => command 0x43 (putNat n)
  | .status => command 0x44 []
  | .identify => command 0x45 []
  | .frameRd a n => wire (Machine.readFrame a n)
  | .frameWr a v => wire (Machine.writeFrame a v)
  | .rd1DevidAd => wire [0x01, 0x00]
  | .rd1DevidMst => wire [0x03, 0x00]
  | .rd1Partid => wire [0x05, 0x00]
  | .rd1Status => wire [0x09, 0x00]
  | .rd3Xdata => wire [0x11, 0x00, 0x00, 0x00]
  | .rd3Ydata => wire [0x17, 0x00, 0x00, 0x00]
  | .rd3Zdata => wire [0x1D, 0x00, 0x00, 0x00]
  | .rd3FifoData => wire [0x23, 0x00, 0x00, 0x00]
  | .wrFilter v => wire [0x50, v]
  | .rd1Range => wire [0x59, 0x00]
  | .wrRange v => wire [0x58, v]
  | .rd1PowerCtl => wire [0x5B, 0x00]
  | .wrPowerCtl v => wire [0x5A, v]

/-- The bytes of a word: byte `i` is bits `8 i + 7 .. 8 i`. -/
def wordBytes (nbits w : Nat) : List Byte := (List.range (nbits / 8)).map fun i => BitVec.ofNat 8 (w / 256 ^ i)

/-- A frame that begins with the one byte `b` and goes on with zeros: the frame R101 names by that command byte where
there is one, else the shortest frame. -/
def zeroPaddedFrame (b : Byte) : Frame :=
  match decodeFrame [b, 0, 0, 0] with
  | .ok (.frameRd _ _) => [b, 0]
  | .ok _ => [b, 0, 0, 0]
  | .error _ => [b, 0]

/-- The request of a table word: one byte that is an operation code is a command with operands of zeros, any other word
is a frame (log entry 8). -/
def tableRequest (nbits w : Nat) : Request :=
  match wordBytes nbits w with
  | [b] =>
    match decodeCommand .binary64 (b :: List.replicate 16 0) with
    | .error (.unknownCode _) => wire (zeroPaddedFrame b)
    | _ => command b (List.replicate 16 0)
  | bs => wire bs

/-- The instruction the decoder reads from a word numbered as `spec/opcode_table.json` numbers it, `NUMERICS` being the
spec's default (R175). -/
def decodeTableWord (nbits w : Nat) : Option Instr := (decode .binary64 (tableRequest nbits w)).toOption

end Sys2Proof
end

