-- ==== Sys2Proof/Machine/Fetch.lean ====
section
/-! DEFINITION. What a step finds to do: the reset input, an operation in progress, or the next request on the command
port (`60_exceptions.md` R232, R246; `70_reset_and_hazards.md` R260). The core fetches no instructions from memory
(`20_memory.md` R75): its requests come from the host. -/

namespace Sys2Proof.Machine

/-- What a step finds to do. -/
inductive Found
  /-- The reset input is up (R260). -/
  | reset
  /-- An operation is in progress: a request presented meanwhile is not taken (R246). -/
  | inProgress
  /-- `fsm` says busy and `OP` is empty. -/
  | lost
  /-- Nothing is presented: the core waits in `Idle` (R47). -/
  | nothing
  /-- A request that decodes, and the core without it on the port. -/
  | request (i : Instr) (s : State)
  /-- A request whose operation code is not in the table (R232). -/
  | unknown (code : Byte) (s : State)
  /-- A request that cannot be presented (R113). -/
  | notPresentable
  deriving DecidableEq, Repr

/-- The core with one request taken from the port. -/
def State.withPort (s : State) (p : List Request) : State := { s with port := p }

/-- What the step finds to do. -/
def State.found (s : State) : Found :=
  if s.resetIn then .reset
  else if s.op.isSome then .inProgress
  else if s.busy then .lost
  else
    match s.port with
    | [] => .nothing
    | r :: rest =>
      match decode s.cfg.numerics r with
      | .ok i => .request i (s.withPort rest)
      | .error (.unknownCode c) => .unknown c (s.withPort rest)
      | .error _ => .notPresentable

/-- The operation in progress goes on (R199). -/
def State.resume (s : State) : State := State.run s.fuel s

/-- An unknown operation code is refused at the command port with `InvalidArgument`; nothing else happens (R232). -/
def State.refuseCode (s : State) (code : Byte) : State := s.begin.raise .invalidArgument (.code code)

/-- The core idle with one request presented. -/
def State.presented (s : State) (r : Request) : State :=
  { s with port := [r], op := none, fsm := .idle, resetIn := false }

end Sys2Proof.Machine
end

