-- ==== Sys2Proof/Machine/Step.lean ====
section
/-! DEFINITION. One step of the machine: a reset, the next positions of the operation in progress, or the next operation
the host presents. -/

namespace Sys2Proof.Machine

/-- One step. -/
def step (s : State) : Host.Outcome State Fault Refusal :=
  match s.found with
  | .reset => .next s.applyReset
  | .inProgress => .next s.resume
  | .lost => .fault .sequencerLost
  | .nothing => .next s
  | .request i s' => exec i s'
  | .unknown code s' => .next (s'.refuseCode code)
  | .notPresentable => .refused .notPresentable

/-- The state with the request of a table word presented, so that the next step runs it (log entry 6). -/
def State.withFetchWord (s : State) (nbits w : Nat) : State := s.presented (tableRequest nbits w)

end Sys2Proof.Machine
end

