-- ==== Sys2Proof/Safety.lean ====
section
/-! DEFINITION. The terms the statements are written in: the state after an operation that returned or raised, what the
environment answers along a wait or a drain, what the pseudocode of each operation may hold, and the invariant of the
machine. Nothing here is used by a meaning. -/

namespace Sys2Proof.Machine

/-- `s` after an operation that made the collaborator calls leading to the environment `e` and returned `r` with no
warning: the whole frame, every other field is that of `s`. -/
def State.returned (s : State) (e : Env) (r : Result) : State :=
  { s with env := e, warn := false, err := .ok, info := .none, res := r, fsm := .idle, op := none,
           freeSeq := s.freeSeq + 1 }

/-- `s` after an operation that made the calls leading to `e` and raised `code` with `info`: `RES` is the free value of
that number (R240), every other field is that of `s`. -/
def State.raised (s : State) (e : Env) (code : ErrCode) (info : ErrInfo) : State :=
  { s with env := e, warn := false, err := code, info := info, res := Config.freeResult s.freeSeq, fsm := .idle,
           op := none, freeSeq := s.freeSeq + 1 }

/-- `s` with another fuel. -/
def State.withFuel (s : State) (k : Nat) : State := { s with fuel := k }

/-- The environment after `j` samples of the ready line that all read low, each followed by a sleep of `d`; none where a
sample reads high or fails (R190). -/
def Env.lowFor (p : Pin) (d : Ticks) : Nat → Env → Option Env
  | 0, e => some e
  | j + 1, e =>
    match e.digitalRead p with
    | (e', .level false) => Env.lowFor p d j (e'.sleep d)
    | _ => none

/-- The environment after a drain that yields `k` triplets, the triplets, and the payload of the last X-slot read; none
where a read fails, the marker comes early on an X slot, or does not come after `k` triplets (R196 to R198). -/
def Env.drain (m : RegMap) : Nat → Env → Option (Env × List FifoTriplet × Payload)
  | 0, e =>
    match e.regRead m m.fifoData 3 with
    | (e1, .ok [a, b, c]) => if c &&& 0x02 = 0 then none else some (e1, [], ⟨a, b, c⟩)
    | _ => none
  | k + 1, e =>
    match e.regRead m m.fifoData 3 with
    | (e1, .ok [a, b, c]) =>
      if c &&& 0x02 = 0 then
        match e1.regRead m m.fifoData 3 with
        | (e2, .ok [a', b', c']) =>
          match e2.regRead m m.fifoData 3 with
          | (e3, .ok [a'', b'', c'']) =>
            match Env.drain m k e3 with
            | some (e4, l, x) => some (e4, ⟨⟨a, b, c⟩, ⟨a', b', c'⟩, ⟨a'', b'', c''⟩⟩ :: l, x)
            | none => none
          | _ => none
        | _ => none
      else none
    | _ => none

/-- The environment after one drain for each number of the list, that yields so many triplets, all the triplets in order,
and the payload of the last X-slot read (`x` where there is no drain). -/
def Env.drains (m : RegMap) : List Nat → Payload → Env → Option (Env × List FifoTriplet × Payload)
  | [], x, e => some (e, [], x)
  | k :: ks, _, e =>
    match Env.drain m k e with
    | some (e1, l, x1) =>
      match Env.drains m ks x1 e1 with
      | some (e2, l2, x2) => some (e2, l ++ l2, x2)
      | none => none
    | none => none

/-- The number that a finite binary64 number is. -/
def f64Value (b : F64) : Option ℚ :=
  match unpack b with
  | .finite sign mant ex => some ((if sign then -1 else 1) * (mant : ℚ) * (2 : ℚ) ^ ex)
  | .infinite _ | .nan => none

/-- `r` is the exact number `x` rounded once to binary64, to nearest, a tie to the even significand (R175): no finite
number is nearer to `x`, and where another is as near, the last bit of `r` is 0. From half a last place beyond the largest
finite number on, `r` is infinite. Its sign bit is `negative`, for a zero too. -/
structure RoundsTo (r : F64) (negative : Bool) (x : ℚ) : Prop where
  sign : r.getLsbD 63 = negative
  nearest : |x| < 2 ^ 1024 - 2 ^ 970 → ∃ z, f64Value r = some z ∧ ∀ (c : F64) (w : ℚ), f64Value c = some w →
    |z - x| ≤ |w - x| ∧ (w ≠ z → |w - x| = |z - x| → r.getLsbD 0 = false)
  overflow : 2 ^ 1024 - 2 ^ 970 ≤ |x| → r = infinity negative

/-- The Y payload last latched by drains that yielded `l`, when the latch held `y` before. -/
def lastY (y : Payload) (l : List FifoTriplet) : Payload :=
  match l.getLast? with
  | some t => t.py
  | none => y

end Sys2Proof.Machine

namespace Sys2Proof

open Machine

/-- The call failed, or answered with the wrong length (R61, R235). -/
def Event.failed : Event → Bool
  | .transfer _ (.fail _) => true
  | .transfer f (.respond r) => decide (r.length ≠ f.length)
  | .digitalRead _ (.fail _) => true
  | .digitalRead _ (.level _) => false
  | .sleep _ => false

/-- The addresses of the device registers that an operation writes (R78, R101). -/
def Instr.stores (m : RegMap) : Instr → List Addr
  | .regWr a _ => [a]
  | .frameWr a _ => [a]
  | .wrFilter _ => [0x28]
  | .wrRange _ => [0x2C]
  | .wrPowerCtl _ => [0x2D]
  | .start | .stop => [m.powerCtl]
  | .setRange _ => [m.powerCtl, m.range]
  | .setFilter _ _ => [m.powerCtl, m.filter]
  | .configure _ _ _ => [m.powerCtl, m.range, m.filter]
  | _ => []

/-- The sequencer states of an operation in progress (R31). -/
def Instr.passes : Instr → Fsm → Bool
  | .regRd _ _, f | .regWr _ _, f | .start, f | .stop, f | .setRange _, f | .setFilter _ _, f | .configure _ _ _, f
  | .status, f | .identify, f | .frameRd _ _, f | .frameWr _ _, f | .rd1DevidAd, f | .rd1DevidMst, f | .rd1Partid, f
  | .rd1Status, f | .rd3Xdata, f | .rd3Ydata, f | .rd3Zdata, f | .rd3FifoData, f | .wrFilter _, f | .rd1Range, f
  | .wrRange _, f | .rd1PowerCtl, f | .wrPowerCtl _, f => decide (f = .sequencing)
  | .waitReady _, f => decide (f = .waitingReady)
  | .rdAxisRaw _, f => decide (f = .reading)
  | .rdAxisTriplet, f | .rdTripletRaw, f | .rdTripletG, f => decide (f = .waitingReady) || decide (f = .reading)
  | .drainFifo, f | .acqN _, f | .rdBurstRaw _, f | .rdBurstG _, f => decide (f = .draining)
  | .encRd _ _, _ | .encWr _ _, _ | .decRsp _, _ | .decRaw20 _ _ _, _ | .sext20 _, _ | .toG _ _, _ => false

/-- The operation takes three axes behind the ready line. -/
def Instr.isTriplet : Instr → Bool
  | .rdAxisTriplet | .rdTripletRaw | .rdTripletG => true
  | _ => false

/-- The operation writes the range record: `set_range`, `configure` (R21). -/
def Instr.setsRange : Instr → Bool
  | .setRange _ | .configure _ _ _ => true
  | _ => false

/-- The operation writes the filter record: `set_filter`, `configure` (R22, R23). -/
def Instr.setsFilter : Instr → Bool
  | .setFilter _ _ | .configure _ _ _ => true
  | _ => false

/-- The operation drains the FIFO (R198, R200). -/
def Instr.drains : Instr → Bool
  | .drainFifo | .acqN _ | .rdBurstRaw _ | .rdBurstG _ => true
  | _ => false

/-- A position may stand in the pseudocode of an operation: the commits only where R21 to R24 allow them, the change to
`Reading` only in a triplet read, the positions of the drain loop only where R198 and R200 have them. -/
def Instr.may (i : Instr) : Micro → Bool
  | .commitRange _ => i.setsRange
  | .commitFilter _ _ => i.setsFilter
  | .enterReading => i.isTriplet
  | .fifoX | .fifoY | .fifoZ | .accumulate | .acqTest _ => i.drains
  | _ => true

end Sys2Proof

namespace Sys2Proof.Machine

/-- Behind every Y-slot or Z-slot read the drain loop goes on. -/
def drainShape : List Micro → Bool
  | [] => true
  | m :: rest => (if m = .fifoY ∨ m = .fifoZ then decide (Micro.fifoX ∈ rest) else true) && drainShape rest

/-- `r` is a key of the table. -/
def isRangeKey (t : List RangeRow) (r : Decimal) : Bool := t.any fun row => decide (row.key = r)

/-- `odr` is a key of the table. -/
def isOdrKey (t : List OdrRow) (odr : Decimal) : Bool := t.any fun row => decide (row.key = odr)

/-- `h` is a key of the table. -/
def isHpfKey (t : List HpfRow) (h : Int) : Bool := t.any fun row => decide (row.key = h)

/-- A commit still to do commits keys of the tables. -/
def commitsKeys (c : Config) : Micro → Bool
  | .commitRange r => isRangeKey c.rangeTable r
  | .commitFilter odr hpf => isOdrKey c.odrTable odr && isHpfKey c.hpfTable hpf
  | _ => true

/-- What the operation in progress may be. -/
structure Running.Fits (r : Running) (s : State) : Prop where
  /-- The sequencer state is one of the operation's (R31). -/
  fsm : r.instr.passes s.fsm = true
  /-- Every position still to do is one of the operation's (R21 to R24). -/
  may : ∀ m ∈ r.todo, r.instr.may m = true
  /-- A drain in the middle of a triplet goes on (R198). -/
  shape : drainShape r.todo = true
  /-- What is to be committed are keys of the tables (R21 to R23). -/
  keys : ∀ m ∈ r.todo, commitsKeys s.cfg m = true

/-- The invariant of the machine. -/
structure State.Inv (s : State) : Prop where
  /-- `fsm = Idle` exactly when no operation is in progress (R30). -/
  idle : s.fsm = .idle ↔ s.op = none
  /-- The operation in progress is one the core can have. -/
  fits : ∀ r, s.op = some r → r.Fits s
  /-- `SLOT` is X whenever no drain is in progress (R27). -/
  slot : s.slot = .x ∨ ∃ r, s.op = some r ∧ Micro.fifoX ∈ r.todo
  /-- `SCALE` is the scale factor of `RANGE_SEL` (R24, R174). -/
  scale : s.scale = s.rangeSel.map (scaleOf s.cfg.numerics)
  /-- `RANGE_SEL` is none or a key of `RANGE_TABLE` (R21). -/
  range : ∀ d, s.rangeSel = some d → isRangeKey s.cfg.rangeTable d = true
  /-- `ODR_SEL` is none or a key of `ODR_TABLE` (R22). -/
  odr : ∀ d, s.odrSel = some d → isOdrKey s.cfg.odrTable d = true
  /-- `HPF_SEL` is none or a key of `HPF_TABLE` (R23). -/
  hpf : ∀ h, s.hpfSel = some h → isHpfKey s.cfg.hpfTable h = true
  /-- The reference device's registers are in canonical form and its FIFO within its depth (R81). -/
  device : ∀ d, s.env.device = some d → Memory.wf s.cfg.regmap d.mem = true ∧ d.fifo.length ≤ s.cfg.fifoDepth

end Sys2Proof.Machine
end

