-- ==== Sys2Proof/Certificates/Slice0/Obligations.lean ====
section
/-! DEFINITION. The statements for the provers. `[n]` is the assumption log's entry. An operation's result is stated with the
whole state after it: `State.returned` and `State.raised` (Safety) are the state before it but for the environment, the
result port, `fsm`, `OP` and the number of the free values, so that each such equation is the frame of the operation too. -/

open Sys2Proof Sys2Proof.Machine

/-! ### Encodings -/

/-- Decoding what is encoded gives it back, for every format `NUMERICS`, operation and operand (R91, R92, R95, R101, R112, R113). The
byte layout of the command port's operands is the model's choice [7]. -/
def Obligations.EncodeThenDecode : Prop :=
  ∀ (n : Numerics) (i : Instr), i.wellFormed n = true → decode n (encode i) = .ok i

/-- What decodes can be presented: its operands are in their ranges, and a scale factor is of the core's format (R113,
R133). -/
def Obligations.DecodedIsWellFormed : Prop :=
  ∀ (n : Numerics) (r : Request) (i : Instr), decode n r = .ok i → i.wellFormed n = true

/-- R95: which byte sequences are which request, in numbers; every other sequence is invalid; encoding then decoding a valid
request is the identity, and the converse holds for a read frame exactly when its fillers are zero. -/
def Obligations.FramesReadBack : Prop :=
  (∀ (f : Frame) (a : Addr) (n : Nat),
    parseFrame f = .read a n ↔ ∃ c rest, f = c :: rest ∧ c.toNat = 2 * a.toNat + 1 ∧ rest.length = n ∧ 1 ≤ n) ∧
  (∀ (f : Frame) (a : Addr) (v : Byte),
    parseFrame f = .write a v ↔ ∃ c : Byte, f = [c, v] ∧ c.toNat = 2 * a.toNat) ∧
  (∀ f : Frame, parseFrame f = .invalid ↔
    f = [] ∨ (∃ c : Byte, c.toNat % 2 = 1 ∧ f = [c]) ∨ (∃ (c : Byte) (l : List Byte), c.toNat % 2 = 0 ∧ f = c :: l ∧ l.length ≠ 1)) ∧
  (∀ (a : Addr) (n : Nat), 1 ≤ n → parseFrame (readFrame a n) = .read a n) ∧
  (∀ (a : Addr) (v : Byte), parseFrame (writeFrame a v) = .write a v) ∧
  (∀ (f : Frame) (a : Addr) (v : Byte), parseFrame f = .write a v → writeFrame a v = f) ∧
  (∀ (c : Byte) (rest : List Byte) (a : Addr) (n : Nat), parseFrame (c :: rest) = .read a n →
    (readFrame a n = c :: rest ↔ ∀ b ∈ rest, b = 0))

/-- Words written out from the tables of R101 and R112 decode to the operation they stand for. -/
def Obligations.WrittenWordsDecode : Prop :=
  ∀ n : Numerics,
    decode n ⟨.wire, [0x5A, 0x01]⟩ = .ok (.wrPowerCtl 0x01) ∧
    decode n ⟨.wire, [0x23, 0x00, 0x00, 0x00]⟩ = .ok .rd3FifoData ∧
    decode n ⟨.wire, [0x5F, 0x00, 0x00]⟩ = .ok (.frameRd 0x2F 2) ∧
    decode n ⟨.wire, [0xFE, 0xFF]⟩ = .ok (.frameWr 0x7F 0xFF) ∧
    decode n ⟨.command, [0x05, 0x2C, 0x82]⟩ = .ok (.regWr 0x2C 0x82) ∧
    decode n ⟨.command, [0x11]⟩ = .ok .stop ∧
    decode n ⟨.command, [0x20, 0x12, 0x34, 0x5F]⟩ = .ok (.decRaw20 0x12 0x34 0x5F) ∧
    decode n ⟨.command, [0x31, 0x01]⟩ = .ok (.rdAxisRaw 0x01) ∧
    decode n ⟨.command, [0x45]⟩ = .ok .identify ∧
    decode .binary64 ⟨.command, [0x22, 0x02, 0x3E, 0xD0, 0x62, 0x4D, 0xD2, 0xF1, 0xA9, 0xFC]⟩ =
      .ok (.toG 1 (.binary64 0x3ED0624DD2F1A9FC))

/-! ### The machine's step -/

/-- An idle core takes the next request of its port and runs the operation it decodes to; the request leaves the port. -/
def Obligations.StepRunsTheDecodedOperation : Prop :=
  ∀ (s : State) (r : Request) (rest : List Request) (i : Instr),
    s.resetIn = false → s.op = none → s.fsm = .idle → s.port = r :: rest →
    decode s.cfg.numerics r = .ok i →
    step s = exec i { s with port := rest }

/-- R232: an operation code that is not in the table is refused with `InvalidArgument`; nothing else happens. -/
def Obligations.UnknownCodeIsRefused : Prop :=
  ∀ (s : State) (code : Byte) (operands : List Byte) (rest : List Request),
    s.resetIn = false → s.op = none → s.fsm = .idle → s.port = ⟨.command, code :: operands⟩ :: rest →
    code.toNat ∉ [0x01, 0x02, 0x03, 0x04, 0x05, 0x10, 0x11, 0x12, 0x13, 0x14, 0x20, 0x21, 0x22, 0x30, 0x31, 0x32, 0x33,
      0x34, 0x40, 0x41, 0x42, 0x43, 0x44, 0x45] →
    step s = .next (({ s with port := rest } : State).raised s.env .invalidArgument (.code code))

/-- R246: an operation presented while `fsm ≠ Idle` has no effect, and what stands on the port while an operation runs
changes nothing but the port. -/
def Obligations.BusyPortHasNoEffect : Prop :=
  (∀ (i : Instr) (s : State), s.fsm ≠ .idle → exec i s = .next s) ∧
  (∀ (s : State) (r : Running) (p : List Request), s.resetIn = false → s.op = some r →
    ∃ t, step s = .next t ∧ t.port = s.port ∧ step { s with port := p } = .next { t with port := p })

/-- R260, R47: the reset event puts every core register that R47 gives a value at that value, ends the operation in progress,
and calls no collaborator; the configuration inputs and the device stay (R261, R262). -/
def Obligations.ResetEvent : Prop :=
  ∀ s : State, s.resetIn = true →
    ∃ t, step s = .next t ∧ t.rangeSel = none ∧ t.odrSel = none ∧ t.hpfSel = none ∧ t.scale = none ∧ t.acc = [] ∧
      t.slot = .x ∧ t.elapsed = 0 ∧ t.op = none ∧ t.fsm = .idle ∧ t.err = .ok ∧ t.warn = false ∧
      t.env = s.env ∧ t.cfg = s.cfg ∧ t.resetIn = false

/-- R47: the values the table gives for the state after reset. -/
def Obligations.StateAfterReset : Prop :=
  State.reset.rangeSel = none ∧ State.reset.odrSel = none ∧ State.reset.hpfSel = none ∧ State.reset.scale = none ∧
  State.reset.acc = [] ∧ State.reset.slot = .x ∧ State.reset.elapsed = 0 ∧ State.reset.op = none ∧
  State.reset.fsm = .idle ∧ State.reset.err.number = 0 ∧ State.reset.warn = false ∧ State.reset.busy = false

/-- The state after reset meets the invariant. That the reference device is attached there is the model's choice [2]. -/
def Obligations.InvariantAtReset : Prop := State.reset.Inv

/-- Every step keeps the invariant: `fsm = Idle` exactly when no operation is in progress, `fsm` in the path R31 gives the
operation, `SLOT` X outside a drain, `SCALE` the factor of `RANGE_SEL`, `ODR_SEL` and `HPF_SEL` keys of their tables, the
reference device's registers in canonical form and its FIFO within its depth. -/
def Obligations.StepKeepsTheInvariant : Prop :=
  ∀ s t : State, s.Inv → step s = .next t → t.Inv

/-- Under the invariant a step never ends in a fault, and it refuses only a request that cannot be presented: one that does
not decode, though its operation code, where it has one, is in the table (R113, R133, R232). -/
def Obligations.StepStopsOnlyOnUnpresentableRequests : Prop :=
  ∀ s : State, s.Inv →
    (∀ f, step s ≠ .fault f) ∧
    (∀ x, step s = .refused x → x = .notPresentable ∧ ∃ r rest e, s.port = r :: rest ∧
      decode s.cfg.numerics r = .error e ∧
      ∀ c, e ≠ .unknownCode c)

/-- R25, R46: no step writes the configuration inputs and tables. -/
def Obligations.ConfigurationIsConstant : Prop :=
  ∀ s t : State, step s = .next t → t.cfg = s.cfg

/-- R21 to R24: only `set_range` and `configure` change `RANGE_SEL` or `SCALE`, and only `set_filter` and `configure` change
`ODR_SEL` or `HPF_SEL`, besides the reset event. -/
def Obligations.OnlyConfigurationChangesTheRecord : Prop :=
  ∀ s t : State, s.Inv → step s = .next t → s.resetIn = false →
    (t.rangeSel ≠ s.rangeSel ∨ t.scale ≠ s.scale →
      (∃ r, s.op = some r ∧ r.instr.setsRange = true) ∨
      (s.op = none ∧ ∃ q rest i, s.port = q :: rest ∧ decode s.cfg.numerics q = .ok i ∧ i.setsRange = true)) ∧
    (t.odrSel ≠ s.odrSel ∨ t.hpfSel ≠ s.hpfSel →
      (∃ r, s.op = some r ∧ r.instr.setsFilter = true) ∨
      (s.op = none ∧ ∃ q rest i, s.port = q :: rest ∧ decode s.cfg.numerics q = .ok i ∧ i.setsFilter = true))

/-- R74: the calls of a step are added to the record in one total order; nothing is dropped or changed; a reset makes
none (R260). -/
def Obligations.CallsAreOneTotalOrder : Prop :=
  ∀ s t : State, step s = .next t →
    ∃ l, t.env.history = s.env.history ++ l ∧ (s.resetIn = true → l = [])

/-- R235, R242, R243: of the calls of an operation only the last can have failed, and it failed exactly when the operation
has ended with `TransportError`: nothing is retried, nothing is issued after a failure. -/
def Obligations.FailedCallIsTheLast : Prop :=
  ∀ (i : Instr) (s t : State), s.fsm = .idle → exec i s = .next t →
    ∃ l, t.env.history = s.env.history ++ l ∧ (∀ ev ∈ l.dropLast, ev.failed = false) ∧
      ((t.op = none ∧ t.err = .transportError) ↔ ∃ ev, l.getLast? = some ev ∧ ev.failed = true)

/-- R199 asks for fuel and never a built-in bound: an operation that a step of fuel `k` leaves in progress goes on in the
next step, and with fuel `j` there ends up as in one step of fuel `k + j`. How a step is cut is the model's choice [5]. -/
def Obligations.CuttingAnOperationChangesNothing : Prop :=
  ∀ (i : Instr) (s : State) (k j : Nat), s.fsm = .idle → s.resetIn = false →
    ∃ t u, exec i (s.withFuel (k + j)) = .next t ∧ exec i (s.withFuel k) = .next u ∧
      (u.op = none → t = u.withFuel (k + j)) ∧
      (u.op ≠ none → step (u.withFuel j) = .next (t.withFuel j))

/-! ### Codec -/

/-- R130, R131, R132: the read frame, or `InvalidArgument` for length 0; the write frame; the bytes of a response without
the first, or `InvalidArgument` for no byte. No call, nothing else written. -/
def Obligations.CodecFunctionsResult : Prop :=
  ∀ s : State, s.fsm = .idle →
    (∀ (a : Addr) (n : Nat), exec (.encRd a n) s = .next (if n = 0 then s.raised s.env .invalidArgument .length
      else s.returned s.env (.bytes (BitVec.ofNat 8 (2 * a.toNat + 1) :: List.replicate n 0)))) ∧
    (∀ (a : Addr) (v : Byte), exec (.encWr a v) s =
      .next (s.returned s.env (.bytes [BitVec.ofNat 8 (2 * a.toNat), v]))) ∧
    exec (.decRsp []) s = .next (s.raised s.env .invalidArgument .empty) ∧
    (∀ (b : Byte) (l : List Byte), exec (.decRsp (b :: l)) s = .next (s.returned s.env (.bytes l)))

/-- R135 (a) to (e): the laws of the three codec functions. -/
def Obligations.CodecLaws : Prop :=
  (∀ (a : Addr) (n : Nat) (v : Byte), 1 ≤ n → ∃ c rest w,
    encodeRead a n = .ok (c :: rest) ∧ encodeWrite a v = [w, v] ∧ (c :: rest).length = n + 1 ∧
    c.getLsbD 0 = true ∧ w.getLsbD 0 = false ∧ (c >>> 1).toNat = a.toNat ∧ (w >>> 1).toNat = a.toNat ∧
    c.toNat = w.toNat + 1) ∧
  (∀ r : List Byte, r ≠ [] → ∃ p, decodeReadResponse r = .ok p ∧ p.length = r.length - 1)

/-- R66, R67, R61, R60: `RegRead` is one transfer of the read frame, recorded with its answer, and `RegWrite` one of the write
frame; the payload is the response without its first byte, a write's response is discarded but for its length; a failure
or a response of the wrong length is `TransportError`; `n = 0` is `InvalidArgument` with no transfer. -/
def Obligations.RegisterAccessIsOneTransaction : Prop :=
  ∀ (m : RegMap) (e : Env) (a : Addr),
    e.regRead m a 0 = (e, .error (.invalidArgument, .length)) ∧
    (∀ n, 1 ≤ n → ∃ f e' ans, f = BitVec.ofNat 8 (2 * a.toNat + 1) :: List.replicate n 0 ∧
      e.transfer m f = (e', ans) ∧ e'.history = e.history ++ [.transfer f ans] ∧
      (∀ k, ans = .fail k → e.regRead m a n = (e', .error (.transportError, .transport k))) ∧
      (∀ b p, ans = .respond (b :: p) → p.length = n → e.regRead m a n = (e', .ok p)) ∧
      (∀ r, ans = .respond r → r.length ≠ n + 1 → e.regRead m a n = (e', .error (.transportError, .responseLength)))) ∧
    (∀ v : Byte, ∃ f e' ans, f = [BitVec.ofNat 8 (2 * a.toNat), v] ∧
      e.transfer m f = (e', ans) ∧ e'.history = e.history ++ [.transfer f ans] ∧
      (∀ k, ans = .fail k → e.regWrite m a v = (e', .error (.transportError, .transport k))) ∧
      (∀ r, ans = .respond r → r.length = 2 → e.regWrite m a v = (e', .ok ())) ∧
      (∀ r, ans = .respond r → r.length ≠ 2 → e.regWrite m a v = (e', .error (.transportError, .responseLength))))

/-- R136: `reg_read` of a documented address returns the payload of its one transaction. -/
def Obligations.RegisterReadResult : Prop :=
  ∀ (a : Addr) (n : Nat) (s : State) (e : Env) (p : List Byte),
    s.fsm = .idle → 2 ≤ s.fuel → documented s.cfg.regmap a = true → s.env.regRead s.cfg.regmap a n = (e, .ok p) →
    exec (.regRd a n) s = .next (s.returned e (.bytes p))

/-- R137, R139: `reg_write` to a documented address makes its one transaction and writes no register of the core. -/
def Obligations.RegisterWriteResult : Prop :=
  ∀ (a : Addr) (v : Byte) (s : State) (e : Env),
    s.fsm = .idle → 2 ≤ s.fuel → documented s.cfg.regmap a = true → s.env.regWrite s.cfg.regmap a v = (e, .ok ()) →
    exec (.regWr a v) s = .next (s.returned e .none)

/-- R136, R137, R102, R138, R245: what an argument check refuses, before any call; the length is tested before the
address. -/
def Obligations.ArgumentsAreCheckedFirst : Prop :=
  ∀ s : State, s.fsm = .idle →
    (∀ a, exec (.regRd a 0) s = .next (s.raised s.env .invalidArgument .length)) ∧
    (∀ a n, 1 ≤ n → documented s.cfg.regmap a = false →
      exec (.regRd a n) s = .next (s.raised s.env .invalidArgument (.address a))) ∧
    (∀ a v, documented s.cfg.regmap a = false →
      exec (.regWr a v) s = .next (s.raised s.env .invalidArgument (.address a))) ∧
    (∀ x : Byte, 3 ≤ x.toNat → exec (.rdAxisRaw x) s = .next (s.raised s.env .invalidArgument (.selector x)))

/-- R138: an address is documented exactly when `REGMAP` gives it a name; under the default map, exactly 0x00 to 0x11 and
0x1E to 0x2F. -/
def Obligations.DocumentedAddresses : Prop :=
  (∀ (m : RegMap) (a : Addr), documented m a = true ↔ ∃ name : RegName, m.addr name = a) ∧
  (∀ a : Addr, documented defaultRegMap a = true ↔ a.toNat ≤ 0x11 ∨ (0x1E ≤ a.toNat ∧ a.toNat ≤ 0x2F))

/-- A read frame runs as `RegRead` at its address (R91, R101, R66); running a frame as the access it is the frame of is the
model's choice [9]. -/
def Obligations.ReadFrameResult : Prop :=
  ∀ (i : Instr) (a : Addr) (n : Nat) (s : State) (e : Env) (p : List Byte),
    (i = .frameRd a n ∨ (i, a, n) ∈ ([(.rd1DevidAd, 0x00, 1), (.rd1DevidMst, 0x01, 1), (.rd1Partid, 0x02, 1),
      (.rd1Status, 0x04, 1), (.rd3Xdata, 0x08, 3), (.rd3Ydata, 0x0B, 3), (.rd3Zdata, 0x0E, 3), (.rd3FifoData, 0x11, 3),
      (.rd1Range, 0x2C, 1), (.rd1PowerCtl, 0x2D, 1)] : List (Instr × Addr × Nat))) →
    s.fsm = .idle → 2 ≤ s.fuel → s.env.regRead s.cfg.regmap a n = (e, .ok p) →
    exec i s = .next (s.returned e (.bytes p))

/-- A write frame runs as `RegWrite` at its address (R92, R101, R67); the model's choice [9]. -/
def Obligations.WriteFrameResult : Prop :=
  ∀ (i : Instr) (a : Addr) (v : Byte) (s : State) (e : Env),
    (i, a) ∈ ([(.frameWr a v, a), (.wrFilter v, 0x28), (.wrRange v, 0x2C), (.wrPowerCtl v, 0x2D)] : List (Instr × Addr)) →
    s.fsm = .idle → 2 ≤ s.fuel → s.env.regWrite s.cfg.regmap a v = (e, .ok ()) →
    exec i s = .next (s.returned e .none)

/-! ### Configuration -/

/-- R150, R151: `stop` and `start` read `POWER_CTL` and write it back with bit 0 set, or clear, every other bit as read. -/
def Obligations.StopAndStartResult : Prop :=
  ∀ (s : State) (e1 e2 : Env) (p : Byte),
    s.fsm = .idle → 3 ≤ s.fuel → s.env.regRead s.cfg.regmap s.cfg.regmap.powerCtl 1 = (e1, .ok [p]) →
    (e1.regWrite s.cfg.regmap s.cfg.regmap.powerCtl (p ||| 0x01) = (e2, .ok ()) →
      exec .stop s = .next { s.returned e2 .none with tmp := p }) ∧
    (e1.regWrite s.cfg.regmap s.cfg.regmap.powerCtl (p &&& 0xFE) = (e2, .ok ()) →
      exec .start s = .next { s.returned e2 .none with tmp := p })

/-- R154, R156: the six transactions of `set_range` in their order, then the commit of `RANGE_SEL` and `SCALE`. -/
def Obligations.SetRangeResult : Prop :=
  ∀ (s : State) (d : Decimal) (k : RangeRow) (e1 e2 e3 e4 e5 e6 : Env) (p o q : Byte),
    s.fsm = .idle → 8 ≤ s.fuel → lookupRange s.cfg.rangeTable d = some k →
    s.env.regRead s.cfg.regmap s.cfg.regmap.powerCtl 1 = (e1, .ok [p]) →
    e1.regWrite s.cfg.regmap s.cfg.regmap.powerCtl (p ||| 0x01) = (e2, .ok ()) →
    e2.regRead s.cfg.regmap s.cfg.regmap.range 1 = (e3, .ok [o]) →
    e3.regWrite s.cfg.regmap s.cfg.regmap.range ((o &&& 0xFC) ||| k.code.setWidth 8) = (e4, .ok ()) →
    e4.regRead s.cfg.regmap s.cfg.regmap.powerCtl 1 = (e5, .ok [q]) →
    e5.regWrite s.cfg.regmap s.cfg.regmap.powerCtl (q &&& 0xFE) = (e6, .ok ()) →
    exec (.setRange d) s =
      .next { s.returned e6 .none with tmp := q, rangeSel := some k.key, scale := some (scaleOf s.cfg.numerics k.key) }

/-- R155, R156: the five transactions of `set_filter` in their order, then the commit of `ODR_SEL` and `HPF_SEL`; `SCALE` is
not written. -/
def Obligations.SetFilterResult : Prop :=
  ∀ (s : State) (odr : Decimal) (h : Int) (row : OdrRow) (hrow : HpfRow) (e1 e2 e3 e4 e5 : Env) (p q : Byte),
    s.fsm = .idle → 7 ≤ s.fuel → lookupOdr s.cfg.odrTable odr = some row → lookupHpf s.cfg.hpfTable h = some hrow →
    s.env.regRead s.cfg.regmap s.cfg.regmap.powerCtl 1 = (e1, .ok [p]) →
    e1.regWrite s.cfg.regmap s.cfg.regmap.powerCtl (p ||| 0x01) = (e2, .ok ()) →
    e2.regWrite s.cfg.regmap s.cfg.regmap.filter (BitVec.ofNat 8 (16 * hrow.code.toNat + row.code.toNat)) = (e3, .ok ()) →
    e3.regRead s.cfg.regmap s.cfg.regmap.powerCtl 1 = (e4, .ok [q]) →
    e4.regWrite s.cfg.regmap s.cfg.regmap.powerCtl (q &&& 0xFE) = (e5, .ok ()) →
    exec (.setFilter odr h) s =
      .next { s.returned e5 .none with tmp := q, odrSel := some row.key, hpfSel := some h }

/-- R158: `configure` makes the six transactions of `set_range`, then the five of `set_filter`, and commits both. -/
def Obligations.ConfigureResult : Prop :=
  ∀ (s : State) (d odr : Decimal) (h : Int) (k : RangeRow) (row : OdrRow) (hrow : HpfRow)
    (e1 e2 e3 e4 e5 e6 e7 e8 e9 e10 e11 : Env) (p o q p' q' : Byte),
    s.fsm = .idle → 14 ≤ s.fuel → lookupRange s.cfg.rangeTable d = some k → lookupOdr s.cfg.odrTable odr = some row →
    lookupHpf s.cfg.hpfTable h = some hrow →
    s.env.regRead s.cfg.regmap s.cfg.regmap.powerCtl 1 = (e1, .ok [p]) →
    e1.regWrite s.cfg.regmap s.cfg.regmap.powerCtl (p ||| 0x01) = (e2, .ok ()) →
    e2.regRead s.cfg.regmap s.cfg.regmap.range 1 = (e3, .ok [o]) →
    e3.regWrite s.cfg.regmap s.cfg.regmap.range ((o &&& 0xFC) ||| k.code.setWidth 8) = (e4, .ok ()) →
    e4.regRead s.cfg.regmap s.cfg.regmap.powerCtl 1 = (e5, .ok [q]) →
    e5.regWrite s.cfg.regmap s.cfg.regmap.powerCtl (q &&& 0xFE) = (e6, .ok ()) →
    e6.regRead s.cfg.regmap s.cfg.regmap.powerCtl 1 = (e7, .ok [p']) →
    e7.regWrite s.cfg.regmap s.cfg.regmap.powerCtl (p' ||| 0x01) = (e8, .ok ()) →
    e8.regWrite s.cfg.regmap s.cfg.regmap.filter (BitVec.ofNat 8 (16 * hrow.code.toNat + row.code.toNat)) = (e9, .ok ()) →
    e9.regRead s.cfg.regmap s.cfg.regmap.powerCtl 1 = (e10, .ok [q']) →
    e10.regWrite s.cfg.regmap s.cfg.regmap.powerCtl (q' &&& 0xFE) = (e11, .ok ()) →
    exec (.configure d odr h) s =
      .next { s.returned e11 .none with
        tmp := q', rangeSel := some k.key, scale := some (scaleOf s.cfg.numerics k.key), odrSel := some row.key,
        hpfSel := some h }

/-- R153, R234, R245, R155, R158: a key absent from its table raises the matching error at once, with the offending value
and with no call, in the order range, rate, filter. -/
def Obligations.LookupFailuresTouchNothing : Prop :=
  ∀ (s : State) (d odr : Decimal) (h : Int), s.fsm = .idle →
    ((∀ row ∈ s.cfg.rangeTable, row.key.same d = false) →
      exec (.setRange d) s = .next (s.raised s.env .unsupportedRange (.range d)) ∧
      exec (.configure d odr h) s = .next (s.raised s.env .unsupportedRange (.range d))) ∧
    ((∀ row ∈ s.cfg.odrTable, row.key.same odr = false) →
      exec (.setFilter odr h) s = .next (s.raised s.env .unsupportedRate (.rate odr)) ∧
      ((∃ row ∈ s.cfg.rangeTable, row.key.same d = true) →
        exec (.configure d odr h) s = .next (s.raised s.env .unsupportedRate (.rate odr)))) ∧
    ((∃ row ∈ s.cfg.odrTable, row.key.same odr = true) → (∀ row ∈ s.cfg.hpfTable, row.key ≠ h) →
      exec (.setFilter odr h) s = .next (s.raised s.env .unsupportedFilter (.filter h)) ∧
      ((∃ row ∈ s.cfg.rangeTable, row.key.same d = true) →
        exec (.configure d odr h) s = .next (s.raised s.env .unsupportedFilter (.filter h))))

/-- R105 to R107: in the spec's tables a key matches exactly the number it is, and gives the code of its row. The rates and
their codes are those R106 takes from the family [4]. -/
def Obligations.TablesMatchExactly : Prop :=
  (∀ (d : Decimal) (row : RangeRow), lookupRange defaultRangeTable d = some row ↔
    (d.num * 1000 = 2048 * 10 ^ d.exp ∧ row = ⟨⟨2048, 3⟩, 0b01⟩) ∨
    (d.num * 1000 = 4096 * 10 ^ d.exp ∧ row = ⟨⟨4096, 3⟩, 0b10⟩) ∨
    (d.num * 1000 = 8192 * 10 ^ d.exp ∧ row = ⟨⟨8192, 3⟩, 0b11⟩)) ∧
  (∀ (d : Decimal) (row : OdrRow), lookupOdr defaultOdrTable d = some row ↔
    (d.num = 4000 * 10 ^ d.exp ∧ row = ⟨⟨4000, 0⟩, 0b0000⟩) ∨
    (d.num = 2000 * 10 ^ d.exp ∧ row = ⟨⟨2000, 0⟩, 0b0001⟩) ∨
    (d.num = 1000 * 10 ^ d.exp ∧ row = ⟨⟨1000, 0⟩, 0b0010⟩) ∨
    (d.num = 500 * 10 ^ d.exp ∧ row = ⟨⟨500, 0⟩, 0b0011⟩) ∨
    (d.num = 250 * 10 ^ d.exp ∧ row = ⟨⟨250, 0⟩, 0b0100⟩) ∨
    (d.num = 125 * 10 ^ d.exp ∧ row = ⟨⟨125, 0⟩, 0b0101⟩) ∨
    (d.num * 10 = 625 * 10 ^ d.exp ∧ row = ⟨⟨625, 1⟩, 0b0110⟩) ∨
    (d.num * 100 = 3125 * 10 ^ d.exp ∧ row = ⟨⟨3125, 2⟩, 0b0111⟩) ∨
    (d.num * 1000 = 15625 * 10 ^ d.exp ∧ row = ⟨⟨15625, 3⟩, 0b1000⟩) ∨
    (d.num * 1000 = 7813 * 10 ^ d.exp ∧ row = ⟨⟨7813, 3⟩, 0b1001⟩) ∨
    (d.num * 1000 = 3906 * 10 ^ d.exp ∧ row = ⟨⟨3906, 3⟩, 0b1010⟩)) ∧
  (∀ (h : Int) (row : HpfRow), lookupHpf defaultHpfTable h = some row ↔
    0 ≤ h ∧ h ≤ 6 ∧ row.key = h ∧ (row.code.toNat : Int) = h)

/-- R97: the bits of the register values the core writes. -/
def Obligations.WrittenRegisterBits : Prop :=
  (∀ (old : Byte) (code : BitVec 2), (rangeValue old code).toNat = old.toNat / 4 * 4 + code.toNat) ∧
  (∀ (h : BitVec 3) (o : BitVec 4), (filterValue h o).toNat = 16 * h.toNat + o.toNat) ∧
  (∀ old : Byte, (stopValue old).toNat = old.toNat / 2 * 2 + 1 ∧ (startValue old).toNat = old.toNat / 2 * 2)

/-- R156, R160: an operation that has ended with an error has not written the filter record, and not the range record
either, unless it is a `configure` whose range part had committed (R158). -/
def Obligations.FailureKeepsTheRecord : Prop :=
  ∀ (i : Instr) (s t : State), s.fsm = .idle → exec i s = .next t → t.op = none → t.err ≠ .ok →
    t.odrSel = s.odrSel ∧ t.hpfSel = s.hpfSel ∧
    ((t.rangeSel = s.rangeSel ∧ t.scale = s.scale) ∨
      ∃ d odr h row, i = .configure d odr h ∧ lookupRange s.cfg.rangeTable d = some row ∧ t.rangeSel = some row.key ∧
        t.scale = some (scaleOf s.cfg.numerics row.key))

/-- R157 on the reference device: a configuration operation applied twice leaves the same record and the same device registers
as applied once. -/
def Obligations.ConfigurationIsIdempotent : Prop :=
  ∀ (i : Instr) (s t : State) (d0 : RefDevice), (i.setsRange = true ∨ i.setsFilter = true) → s.fsm = .idle →
    s.cfg.regmap = defaultRegMap → s.env.cues = [] → s.env.device = some d0 →
    exec i s = .next t → t.op = none → t.err = .ok →
    ∃ u d d', exec i t = .next u ∧ u.op = none ∧ u.err = .ok ∧ u.rangeSel = t.rangeSel ∧ u.scale = t.scale ∧
      u.odrSel = t.odrSel ∧ u.hpfSel = t.hpfSel ∧ t.env.device = some d ∧ u.env.device = some d' ∧
      ∀ a, Memory.read s.cfg.regmap d'.mem a = Memory.read s.cfg.regmap d.mem a

/-! ### Sample decoder -/

/-- R170: the 20-bit concatenation; no call, nothing else written. -/
def Obligations.DecodeRaw20Result : Prop :=
  ∀ (h m l : Byte) (s : State), s.fsm = .idle →
    ∃ v : Raw20, v.toNat = h.toNat * 4096 + m.toNat * 16 + l.toNat / 16 ∧
      exec (.decRaw20 h m l) s = .next (s.returned s.env (.raw v))

/-- R172: two's complement over exactly 20 bits; no call, nothing else written. -/
def Obligations.SignExtendResult : Prop :=
  ∀ (raw : Raw20) (s : State), s.fsm = .idle →
    exec (.sext20 raw) s = .next (s.returned s.env
      (.int (if raw.toNat < 0x80000 then (raw.toNat : Int) else (raw.toNat : Int) - 0x100000)))

/-- R172, R177 (a): sign extension is a bijection from 0..0xFFFFF onto -0x80000..0x7FFFF. -/
def Obligations.SignExtensionIsABijection : Prop :=
  (∀ raw : Raw20, -0x80000 ≤ signExtend20 raw ∧ signExtend20 raw ≤ 0x7FFFF) ∧
  (∀ v : Int, -0x80000 ≤ v → v ≤ 0x7FFFF → ∃! raw : Raw20, signExtend20 raw = v)

/-- R173: one product, in the format `NUMERICS`, of the converted integer and the operand scale factor; `SCALE` is not read,
nothing else written. In binary64 it is `fmul` of `float(raw_signed)`, and `raw_signed = 0` gives +0.0 for a positive
finite scale factor; in exact arithmetic (R175) it is the rational product. -/
def Obligations.ToGResult : Prop :=
  ∀ (raw : Int) (f : Number) (s : State), s.fsm = .idle →
    exec (.toG raw f) s = .next (s.returned s.env (.float (toG s.cfg.numerics s.freeSeq raw f))) ∧
    (∀ b : F64, s.cfg.numerics = .binary64 → f = .binary64 b →
      toG s.cfg.numerics s.freeSeq raw f = .binary64 (fmul s.freeSeq (floatOfInt raw) b) ∧
      (b.toNat < 0x7FF0000000000000 → toG s.cfg.numerics s.freeSeq 0 f = .binary64 0)) ∧
    (∀ q : ℚ, s.cfg.numerics = .exact → f = .exact q → toG s.cfg.numerics s.freeSeq raw f = .exact ((raw : ℚ) * q))

/-- R173 to R175: in binary64 the multiplication, the division, and the conversions of an integer and of a decimal key are
each the exact result rounded once, to nearest even. -/
def Obligations.ArithmeticRoundsOnce : Prop :=
  (∀ (k : Nat) (a b : F64) (x y : ℚ), f64Value a = some x → f64Value b = some y →
    RoundsTo (fmul k a b) (a.getLsbD 63 ^^ b.getLsbD 63) (x * y) ∧
    (y ≠ 0 → RoundsTo (fdiv k a b) (a.getLsbD 63 ^^ b.getLsbD 63) (x / y))) ∧
  (∀ v : Int, RoundsTo (floatOfInt v) (decide (v < 0)) v) ∧
  (∀ d : Decimal, RoundsTo (floatOfDecimal d) (decide (d.num < 0)) ((d.num : ℚ) / 10 ^ d.exp))

/-- R173: `float(v)` is exact for every integer of magnitude at most 2^19. -/
def Obligations.IntegerConversionIsExact : Prop :=
  ∀ v : Int, -0x80000 ≤ v → v ≤ 0x7FFFF →
    ∃ sign mant ex, unpack (floatOfInt v) = .finite sign mant ex ∧
      (v : ℚ) = (if sign then -1 else 1) * (mant : ℚ) * (2 : ℚ) ^ ex

/-- R177 (c): in binary64 `to_g` doubles with its operand, exactly, whenever the doubled operand is in range, for the three
scale factors of R174. -/
def Obligations.ToGDoubles : Prop :=
  ∀ (k : Nat) (r : Int) (row : RangeRow), row ∈ defaultRangeTable → -0x40000 ≤ r → r ≤ 0x3FFFF →
    toG .binary64 k (2 * r) (scaleOf .binary64 row.key) =
      numMul .binary64 k (numOfInt .binary64 2) (toG .binary64 k r (scaleOf .binary64 row.key))

/-- R174: the three scale factors in binary64, computed as the expression is written, are those of the table and the numbers
nearest 1/256000, 1/128000, 1/64000; in exact arithmetic (R175) they are these fractions. -/
def Obligations.ScaleFactors : Prop :=
  scaleOf .binary64 ⟨2048, 3⟩ = .binary64 0x3ED0624DD2F1A9FC ∧
  scaleOf .binary64 ⟨4096, 3⟩ = .binary64 0x3EE0624DD2F1A9FC ∧
  scaleOf .binary64 ⟨8192, 3⟩ = .binary64 0x3EF0624DD2F1A9FC ∧
  roundRat false 1 256000 = 0x3ED0624DD2F1A9FC ∧ roundRat false 1 128000 = 0x3EE0624DD2F1A9FC ∧
  roundRat false 1 64000 = 0x3EF0624DD2F1A9FC ∧
  floatOfDecimal ⟨2048, 3⟩ = 0x4000624DD2F1A9FC ∧ floatOfDecimal ⟨4096, 3⟩ = 0x4010624DD2F1A9FC ∧
  floatOfDecimal ⟨8192, 3⟩ = 0x4020624DD2F1A9FC ∧
  scaleOf .exact ⟨2048, 3⟩ = .exact (1 / 256000) ∧ scaleOf .exact ⟨4096, 3⟩ = .exact (1 / 128000) ∧
  scaleOf .exact ⟨8192, 3⟩ = .exact (1 / 64000)

/-! ### Acquisition -/

/-- R190, R191, R235: `wait_ready` with no pin sleeps once and warns; with a pin it returns at the first of at most `k + 1`
samples that reads high, `k` the number of poll intervals the timeout takes up, raises `ReadyTimeout` when all of them
read low, and ends with `TransportError` at a sample that fails. No bus transaction: `Env.lowFor` makes only samples and
sleeps. That `ELAPSED` is 0 after a wait without a pin is the model's reading of R28 [16]. -/
def Obligations.WaitReadyResult : Prop :=
  ∀ (s : State) (timeout : Ticks), s.fsm = .idle →
    (s.cfg.drdyPin = none → 2 ≤ s.fuel →
      exec (.waitReady timeout) s =
        .next { s.returned (s.env.sleep timeout) .none with warn := true, elapsed := 0 }) ∧
    (∀ (pin : Pin) (j : Nat) (e1 e2 : Env), s.cfg.drdyPin = some pin → 0 < s.cfg.pollInterval →
      j ≤ (timeout + s.cfg.pollInterval - 1) / s.cfg.pollInterval → 2 * j + 2 ≤ s.fuel →
      s.env.lowFor pin s.cfg.pollInterval j = some e1 →
      (2 * j + 3 ≤ s.fuel → e1.digitalRead pin = (e2, .level true) →
        exec (.waitReady timeout) s = .next { s.returned e2 .none with elapsed := j * s.cfg.pollInterval }) ∧
      (∀ m, e1.digitalRead pin = (e2, .fail m) →
        exec (.waitReady timeout) s =
          .next { s.raised e2 .transportError (.transport m) with elapsed := j * s.cfg.pollInterval }) ∧
      (j = (timeout + s.cfg.pollInterval - 1) / s.cfg.pollInterval → e1.digitalRead pin = (e2, .level false) →
        exec (.waitReady timeout) s =
          .next { s.raised e2 .readyTimeout .none with elapsed := j * s.cfg.pollInterval }))

/-- R192, R102, R171: one 3-byte read at the axis's first data register, decoded; no wait (R193). -/
def Obligations.ReadAxisResult : Prop :=
  ∀ (s : State) (x : Byte) (a : Addr) (e : Env) (hi mid lo : Byte),
    (x, a) ∈ [((0 : Byte), s.cfg.regmap.xdata3), (1, s.cfg.regmap.ydata3), (2, s.cfg.regmap.zdata3)] →
    s.fsm = .idle → 2 ≤ s.fuel → s.env.regRead s.cfg.regmap a 3 = (e, .ok [hi, mid, lo]) →
    exec (.rdAxisRaw x) s = .next (s.returned e (.int (signExtend20 (decodeRaw20 hi mid lo))))

/-- R194, R210, R212: behind the wait, three reads in the order X, Y, Z, decoded, and scaled for `read_triplet_g`. Both
waits: without a pin (a sleep and the warning; that `ELAPSED` is 0 then is the model's reading [16]), and with one (high at
sample `j + 1`). -/
def Obligations.TripletReadsResult : Prop :=
  ∀ (s : State) (e0 e1 e2 e3 : Env) (x2 x1 x0 y2 y1 y0 z2 z1 z0 : Byte) (w : Bool) (el : Ticks),
    s.fsm = .idle →
    ((s.cfg.drdyPin = none ∧ 6 ≤ s.fuel ∧ e0 = s.env.sleep s.cfg.readyTimeout ∧ w = true ∧ el = 0) ∨
     (∃ (pin : Pin) (j : Nat) (e : Env), s.cfg.drdyPin = some pin ∧ 0 < s.cfg.pollInterval ∧
        j ≤ (s.cfg.readyTimeout + s.cfg.pollInterval - 1) / s.cfg.pollInterval ∧ 2 * j + 7 ≤ s.fuel ∧
        s.env.lowFor pin s.cfg.pollInterval j = some e ∧ e.digitalRead pin = (e0, .level true) ∧
        w = false ∧ el = j * s.cfg.pollInterval)) →
    e0.regRead s.cfg.regmap s.cfg.regmap.xdata3 3 = (e1, .ok [x2, x1, x0]) →
    e1.regRead s.cfg.regmap s.cfg.regmap.ydata3 3 = (e2, .ok [y2, y1, y0]) →
    e2.regRead s.cfg.regmap s.cfg.regmap.zdata3 3 = (e3, .ok [z2, z1, z0]) →
    let x := signExtend20 (decodeRaw20 x2 x1 x0)
    let y := signExtend20 (decodeRaw20 y2 y1 y0)
    let z := signExtend20 (decodeRaw20 z2 z1 z0)
    exec .rdAxisTriplet s = .next { s.returned e3 (.axes ⟨x, y, z⟩) with warn := w, elapsed := el } ∧
    exec .rdTripletRaw s = .next { s.returned e3 (.axes ⟨x, y, z⟩) with warn := w, elapsed := el } ∧
    ∀ f, s.scale = some f → exec .rdTripletG s =
      .next { s.returned e3 (.axesG ⟨toG s.cfg.numerics s.freeSeq x f, toG s.cfg.numerics s.freeSeq y f,
        toG s.cfg.numerics s.freeSeq z f⟩) with warn := w, elapsed := el }

/-- R195, R236: a wait that times out ends a triplet read with `ReadyTimeout`; no data register is read: the calls are the
samples and sleeps only. -/
def Obligations.TimeoutEndsTripletReads : Prop :=
  ∀ (i : Instr) (s : State) (pin : Pin) (j : Nat) (e1 e2 : Env),
    (i = .rdAxisTriplet ∨ i = .rdTripletRaw ∨ (i = .rdTripletG ∧ s.scale ≠ none)) →
    s.fsm = .idle → s.cfg.drdyPin = some pin → 0 < s.cfg.pollInterval →
    j = (s.cfg.readyTimeout + s.cfg.pollInterval - 1) / s.cfg.pollInterval → 2 * j + 2 ≤ s.fuel →
    s.env.lowFor pin s.cfg.pollInterval j = some e1 → e1.digitalRead pin = (e2, .level false) →
    exec i s = .next { s.raised e2 .readyTimeout .none with elapsed := j * s.cfg.pollInterval }

/-- R194, R235, R237, R240: a transaction that fails ends a triplet read there, whichever of the three it is, and so does a
sample of the ready line that fails (R190). No register but the result port and what the wait leaves has changed; behind a
wait without a pin `WARN` is still 1 (there, that `ELAPSED` is 0 is the model's reading [16]). -/
def Obligations.FailureEndsTripletReads : Prop :=
  ∀ (i : Instr) (s : State), (i = .rdAxisTriplet ∨ i = .rdTripletRaw ∨ (i = .rdTripletG ∧ s.scale ≠ none)) → s.fsm = .idle →
    (∀ (pin : Pin) (j : Nat) (e1 e2 : Env) (m : Nat), s.cfg.drdyPin = some pin → 0 < s.cfg.pollInterval →
      j ≤ (s.cfg.readyTimeout + s.cfg.pollInterval - 1) / s.cfg.pollInterval → 2 * j + 2 ≤ s.fuel →
      s.env.lowFor pin s.cfg.pollInterval j = some e1 → e1.digitalRead pin = (e2, .fail m) →
      exec i s = .next { s.raised e2 .transportError (.transport m) with elapsed := j * s.cfg.pollInterval }) ∧
    (∀ (e0 e1 e2 e3 : Env) (px py : List Byte) (x : Raise) (w : Bool) (el : Ticks),
      ((s.cfg.drdyPin = none ∧ 6 ≤ s.fuel ∧ e0 = s.env.sleep s.cfg.readyTimeout ∧ w = true ∧ el = 0) ∨
       (∃ (pin : Pin) (j : Nat) (e : Env), s.cfg.drdyPin = some pin ∧ 0 < s.cfg.pollInterval ∧
          j ≤ (s.cfg.readyTimeout + s.cfg.pollInterval - 1) / s.cfg.pollInterval ∧ 2 * j + 7 ≤ s.fuel ∧
          s.env.lowFor pin s.cfg.pollInterval j = some e ∧ e.digitalRead pin = (e0, .level true) ∧
          w = false ∧ el = j * s.cfg.pollInterval)) →
      (e0.regRead s.cfg.regmap s.cfg.regmap.xdata3 3 = (e1, .error x) →
        exec i s = .next { s.raised e1 x.1 x.2 with warn := w, elapsed := el }) ∧
      (e0.regRead s.cfg.regmap s.cfg.regmap.xdata3 3 = (e1, .ok px) →
        e1.regRead s.cfg.regmap s.cfg.regmap.ydata3 3 = (e2, .error x) →
        exec i s = .next { s.raised e2 x.1 x.2 with warn := w, elapsed := el }) ∧
      (e0.regRead s.cfg.regmap s.cfg.regmap.xdata3 3 = (e1, .ok px) →
        e1.regRead s.cfg.regmap s.cfg.regmap.ydata3 3 = (e2, .ok py) →
        e2.regRead s.cfg.regmap s.cfg.regmap.zdata3 3 = (e3, .error x) →
        exec i s = .next { s.raised e3 x.1 x.2 with warn := w, elapsed := el }))

/-- R198, R199 (a), (b): `drain_fifo` that finds the marker after `k` triplets returns them as received, in arrival order,
every X payload with the marker clear, after exactly `3 k + 1` calls; `SLOT` ends at X. -/
def Obligations.DrainResult : Prop :=
  ∀ (s : State) (k : Nat) (e : Env) (l : List FifoTriplet) (x : Payload),
    s.fsm = .idle → 3 * k + 2 ≤ s.fuel → s.env.drain s.cfg.regmap k = some (e, l, x) →
    exec .drainFifo s = .next { s.returned e (.triplets l) with slot := .x, xl := x, yl := lastY s.yl l } ∧
    l.length = k ∧ (∀ t ∈ l, t.px.low.getLsbD 1 = false) ∧
    e.history.length = s.env.history.length + (3 * k + 1)

/-- R198 on the reference device (R84): a FIFO of whole triplets with clear markers on their X entries is returned as it
stood, and is empty afterwards; registers and ready line stay. -/
def Obligations.DrainEmptiesTheReferenceFifo : Prop :=
  ∀ (s : State) (d : RefDevice) (l : List FifoTriplet),
    s.fsm = .idle → 3 * l.length + 2 ≤ s.fuel → s.env.device = some d → s.env.cues = [] →
    d.fifo = l.flatMap (fun t => [t.px, t.py, t.pz]) → (∀ t ∈ l, t.px.low.getLsbD 1 = false) →
    ∃ t d', exec .drainFifo s = .next t ∧ t.op = none ∧ t.fsm = .idle ∧ t.err = .ok ∧ t.res = .triplets l ∧
      t.env.device = some d' ∧ d'.fifo = [] ∧ d'.mem = d.mem ∧ d'.drdy = d.drdy ∧
      d'.log = d.log ++ List.replicate (3 * l.length + 1) (readFrame s.cfg.regmap.fifoData 3)

/-- R200, R213, R214, R278: drains follow one another until at least `n` triplets have come, and not beyond; the first `n` are
the result, raw, decoded, or decoded and scaled; `ACC` holds all of them; the surplus is gone. -/
def Obligations.AcquireResult : Prop :=
  ∀ (s : State) (n : Nat) (ks : List Nat) (e : Env) (l : List FifoTriplet) (x : Payload),
    s.fsm = .idle → 0 < n → n ≤ ks.sum → ks.dropLast.sum < n →
    (ks.map fun k => 3 * k + 3).sum + 2 ≤ s.fuel → Env.drains s.cfg.regmap ks s.xl s.env = some (e, l, x) →
    l.length = ks.sum ∧
    exec (.acqN n) s = .next { s.returned e (.triplets (l.take n)) with
      acc := l, slot := .x, xl := x, yl := lastY s.yl l } ∧
    exec (.rdBurstRaw n) s = .next { s.returned e (.axesList ((l.take n).map decodeTriplet)) with
      acc := l, slot := .x, xl := x, yl := lastY s.yl l } ∧
    ∀ f, s.scale = some f → exec (.rdBurstG n) s =
      .next { s.returned e (.axesGList ((l.take n).map fun t => axesToG s.cfg.numerics s.freeSeq f (decodeTriplet t))) with
        acc := l, slot := .x, xl := x, yl := lastY s.yl l }

/-- R200, R213, R214: `n = 0` makes no call and returns the empty list; `ACC` is cleared. -/
def Obligations.AcquireZero : Prop :=
  ∀ s : State, s.fsm = .idle →
    exec (.acqN 0) s = .next { s.returned s.env (.triplets []) with acc := [] } ∧
    exec (.rdBurstRaw 0) s = .next { s.returned s.env (.axesList []) with acc := [] } ∧
    ∀ f, s.scale = some f → exec (.rdBurstG 0) s = .next { s.returned s.env (.axesGList []) with acc := [] }

/-- R114: the scaled and decoded reads are their raw reads followed by the pure functions, from every state and with every
fuel: the same calls, the same registers, the result mapped. -/
def Obligations.ScaledReadsAreCompositions : Prop :=
  ∀ (s t : State) (f : Number), s.fsm = .idle → s.scale = some f →
    (∀ a, exec .rdAxisTriplet s = .next t → t.op = none → t.res = .axes a → t.err = .ok →
      exec .rdTripletRaw s = .next t ∧
      exec .rdTripletG s =
        .next { t with res := .axesG ⟨toG s.cfg.numerics s.freeSeq a.x f, toG s.cfg.numerics s.freeSeq a.y f,
          toG s.cfg.numerics s.freeSeq a.z f⟩ }) ∧
    (∀ n l, exec (.acqN n) s = .next t → t.op = none → t.res = .triplets l → t.err = .ok →
      exec (.rdBurstRaw n) s = .next { t with res := .axesList (l.map decodeTriplet) } ∧
      exec (.rdBurstG n) s =
        .next { t with res := .axesGList (l.map fun p => axesToG s.cfg.numerics s.freeSeq f (decodeTriplet p)) })

/-! ### Controller -/

/-- R211, R238: a scaled read while `SCALE` is undefined, as it is after reset, raises `ScaleUndefined` first: no call, for
`n = 0` too (R214). -/
def Obligations.ScaleUndefinedComesFirst : Prop :=
  State.reset.scale = none ∧
  ∀ s : State, s.fsm = .idle → s.scale = none →
    exec .rdTripletG s = .next (s.raised s.env .scaleUndefined .none) ∧
    ∀ n, exec (.rdBurstG n) s = .next (s.raised s.env .scaleUndefined .none)

/-- R216, R108: one read of `STATUS`; the three flags are bits 0, 1, 2 of the byte. -/
def Obligations.StatusResult : Prop :=
  ∀ (s : State) (e : Env) (b : Byte),
    s.fsm = .idle → 2 ≤ s.fuel → s.env.regRead s.cfg.regmap s.cfg.regmap.status 1 = (e, .ok [b]) →
    exec .status s = .next (s.returned e
      (.status ⟨decide (b.toNat % 2 = 1), decide (b.toNat / 2 % 2 = 1), decide (b.toNat / 4 % 2 = 1)⟩))

/-- R218: three one-byte reads in order; the three bytes as they read. -/
def Obligations.IdentifyResult : Prop :=
  ∀ (s : State) (e1 e2 e3 : Env) (a m p : Byte),
    s.fsm = .idle → 4 ≤ s.fuel →
    s.env.regRead s.cfg.regmap s.cfg.regmap.devidAd 1 = (e1, .ok [a]) →
    e1.regRead s.cfg.regmap s.cfg.regmap.devidMst 1 = (e2, .ok [m]) →
    e2.regRead s.cfg.regmap s.cfg.regmap.partid 1 = (e3, .ok [p]) →
    exec .identify s = .next (s.returned e3 (.ids ⟨a, m, p⟩))

/-! ### The device register space -/

/-- An operation changes no byte of the reference device's registers but those at the addresses it writes (R78, R83):
the operations that write nothing change none. `Instr.stores` computes the addresses from the operands and
`REGMAP`. -/
def Obligations.OnlyStoredBytesChange : Prop :=
  ∀ (i : Instr) (s t : State) (d d' : RefDevice), exec i s = .next t → s.env.device = some d →
    t.env.device = some d' →
    ∀ a : Nat, (∀ x ∈ i.stores s.cfg.regmap, a ≠ x.toNat) →
      Memory.read s.cfg.regmap d'.mem a = Memory.read s.cfg.regmap d.mem a

/-- R82 to R84: what the reference device answers and what a frame changes in it. -/
def Obligations.ReferenceDeviceAnswers : Prop :=
  ∀ (m : RegMap) (d : RefDevice),
    (∀ (a : Addr) (n : Nat), 1 ≤ n → a ≠ m.fifoData → ∃ p,
      d.receive m (readFrame a n) = some ({ d with log := d.log ++ [readFrame a n] }, 0x00 :: p) ∧ p.length = n ∧
      ∀ j, j < n → p[j]? = some (if a.toNat + j ≤ 0x2F ∧ documented m (BitVec.ofNat 7 (a.toNat + j)) = true then
        Memory.read m d.mem (a.toNat + j) else 0x00)) ∧
    (∀ (a : Addr) (v : Byte), ∃ d', d.receive m (writeFrame a v) = some (d', [0x00, 0x00]) ∧ d'.fifo = d.fifo ∧
      ∀ b : Nat, Memory.read m d'.mem b =
        if b = a.toNat ∧ writable m a = true ∧ a.toNat ≤ 0x2F then v else Memory.read m d.mem b) ∧
    (∀ e rest, d.fifo = e :: rest → ∃ d', d.receive m (readFrame m.fifoData 3) =
      some (d', [0x00, e.high, e.mid, e.low]) ∧ d'.fifo = rest ∧ d'.mem = d.mem) ∧
    (d.fifo = [] → ∃ d', d.receive m (readFrame m.fifoData 3) = some (d', [0x00, 0x00, 0x00, 0x02]) ∧
      d'.fifo = [] ∧ d'.mem = d.mem)

/-- R135 (f): against the reference device, `reg_write(a, v)` followed by `reg_read(a, 1)` returns `[v]`, for every writable
register and every byte, and no other register has changed. -/
def Obligations.WriteThenReadReturnsTheValue : Prop :=
  ∀ (s : State) (d : RefDevice) (a : Addr) (v : Byte),
    s.fsm = .idle → 2 ≤ s.fuel → s.env.device = some d → s.env.cues = [] →
    writable s.cfg.regmap a = true → a.toNat ≤ 0x2F → a ≠ s.cfg.regmap.fifoData →
    ∃ t u d', exec (.regWr a v) s = .next t ∧ t.err = .ok ∧ exec (.regRd a 1) t = .next u ∧
      u.op = none ∧ u.err = .ok ∧ u.res = .bytes [v] ∧ u.env.device = some d' ∧
      ∀ b : Nat, b ≠ a.toNat → Memory.read s.cfg.regmap d'.mem b = Memory.read s.cfg.regmap d.mem b

/-- R60, R235, R240: an operation whose first transaction fails ends there, with the transport's error as it came, and has
written no register but the result port (`ACC` is cleared where the operation clears it, R200; `SLOT` ends at X where the
read was a drain's, R27 and [15]). For the reads behind a wait see `FailureEndsTripletReads`; for the frames, which run as
register accesses, [9]. -/
def Obligations.FirstFailureEndsTheOperation : Prop :=
  ∀ (s : State) (e : Env) (x : Raise), s.fsm = .idle → 2 ≤ s.fuel →
    (∀ a n, 1 ≤ n → documented s.cfg.regmap a = true → s.env.regRead s.cfg.regmap a n = (e, .error x) →
      exec (.regRd a n) s = .next (s.raised e x.1 x.2)) ∧
    (∀ a v, documented s.cfg.regmap a = true → s.env.regWrite s.cfg.regmap a v = (e, .error x) →
      exec (.regWr a v) s = .next (s.raised e x.1 x.2)) ∧
    (s.env.regRead s.cfg.regmap s.cfg.regmap.powerCtl 1 = (e, .error x) →
      exec .stop s = .next (s.raised e x.1 x.2) ∧ exec .start s = .next (s.raised e x.1 x.2) ∧
      (∀ d row, lookupRange s.cfg.rangeTable d = some row → exec (.setRange d) s = .next (s.raised e x.1 x.2)) ∧
      (∀ odr h orow hrow, lookupOdr s.cfg.odrTable odr = some orow → lookupHpf s.cfg.hpfTable h = some hrow →
        exec (.setFilter odr h) s = .next (s.raised e x.1 x.2) ∧
        ∀ d row, lookupRange s.cfg.rangeTable d = some row →
          exec (.configure d odr h) s = .next (s.raised e x.1 x.2))) ∧
    (s.env.regRead s.cfg.regmap s.cfg.regmap.status 1 = (e, .error x) → exec .status s = .next (s.raised e x.1 x.2)) ∧
    (s.env.regRead s.cfg.regmap s.cfg.regmap.devidAd 1 = (e, .error x) →
      exec .identify s = .next (s.raised e x.1 x.2)) ∧
    (∀ (b : Byte) (a : Addr),
      (b, a) ∈ [((0 : Byte), s.cfg.regmap.xdata3), (1, s.cfg.regmap.ydata3), (2, s.cfg.regmap.zdata3)] →
      s.env.regRead s.cfg.regmap a 3 = (e, .error x) → exec (.rdAxisRaw b) s = .next (s.raised e x.1 x.2)) ∧
    (s.env.regRead s.cfg.regmap s.cfg.regmap.fifoData 3 = (e, .error x) →
      exec .drainFifo s = .next { s.raised e x.1 x.2 with slot := .x } ∧
      ∀ n, 1 ≤ n →
        exec (.acqN n) s = .next { s.raised e x.1 x.2 with acc := [], slot := .x } ∧
        exec (.rdBurstRaw n) s = .next { s.raised e x.1 x.2 with acc := [], slot := .x } ∧
        (s.scale ≠ none → exec (.rdBurstG n) s = .next { s.raised e x.1 x.2 with acc := [], slot := .x })) ∧
    (∀ (i : Instr) (a : Addr) (n : Nat),
      (i = .frameRd a n ∨ (i, a, n) ∈ ([(.rd1DevidAd, 0x00, 1), (.rd1DevidMst, 0x01, 1), (.rd1Partid, 0x02, 1),
        (.rd1Status, 0x04, 1), (.rd3Xdata, 0x08, 3), (.rd3Ydata, 0x0B, 3), (.rd3Zdata, 0x0E, 3), (.rd3FifoData, 0x11, 3),
        (.rd1Range, 0x2C, 1), (.rd1PowerCtl, 0x2D, 1)] : List (Instr × Addr × Nat))) →
      s.env.regRead s.cfg.regmap a n = (e, .error x) → exec i s = .next (s.raised e x.1 x.2)) ∧
    (∀ (i : Instr) (a : Addr) (v : Byte),
      (i, a) ∈ ([(.frameWr a v, a), (.wrFilter v, 0x28), (.wrRange v, 0x2C), (.wrPowerCtl v, 0x2D)] :
        List (Instr × Addr)) →
      s.env.regWrite s.cfg.regmap a v = (e, .error x) → exec i s = .next (s.raised e x.1 x.2))
end

