-- ==== Sys2Proof/Laws/Codec.lean ====
section
/-! SUPPORT. The operand layout of the command port: what is put is what is taken, for each operand type. -/

namespace Sys2Proof.Codec

/-- A natural number below `128 ^ (fuel + 1)` is taken back, whatever follows it. -/
theorem takeNat_putNatFuel (fuel n : Nat) (rest : List Byte) (h : n < 128 ^ (fuel + 1)) :
    takeNat (putNatFuel fuel n ++ rest) = .ok (n, rest) := by
  induction fuel generalizing n with
  | zero =>
    have hn : n < 128 := by simpa using h
    have hm : n % 256 = n := Nat.mod_eq_of_lt (by omega)
    simp [putNatFuel, takeNat, hm, hn]
  | succ fuel ih =>
    by_cases hn : n < 128
    · have hm : n % 256 = n := Nat.mod_eq_of_lt (by omega)
      simp [putNatFuel, takeNat, hm, hn]
    · have hm : (n % 128 + 128) % 256 = n % 128 + 128 := Nat.mod_eq_of_lt (by omega)
      have hd : n / 128 < 128 ^ (fuel + 1) := by
        rw [Nat.div_lt_iff_lt_mul (by norm_num)]
        rwa [pow_succ] at h
      have hlt : ¬ n % 128 + 128 < 128 := by omega
      simp only [putNatFuel, hn, if_false, List.cons_append, takeNat, BitVec.toNat_ofNat, Nat.reducePow, hm, hlt, ih _ hd]
      congr 2
      omega

/-- A natural number is taken back. -/
theorem takeNat_putNat (n : Nat) (rest : List Byte) : takeNat (putNat n ++ rest) = .ok (n, rest) := by
  refine takeNat_putNatFuel _ _ _ ?_
  calc n < 2 ^ (n.log2 + 1) := Nat.lt_log2_self
    _ ≤ 128 ^ (n.log2 + 1) := Nat.pow_le_pow_left (by norm_num) _

/-- The number of an integer stands for it. -/
theorem intOfNat_natOfInt (v : Int) : intOfNat (natOfInt v) = v := by
  simp only [intOfNat, natOfInt]
  split <;> split <;> omega

/-- An integer is taken back. -/
theorem takeInt_putInt (v : Int) (rest : List Byte) : takeInt (putInt v ++ rest) = .ok (v, rest) := by
  simp only [takeInt, putInt, takeNat_putNat, bind, Except.bind, pure, Except.pure, intOfNat_natOfInt]

/-- A decimal is taken back. -/
theorem takeDecimal_putDecimal (d : Decimal) (rest : List Byte) : takeDecimal (putDecimal d ++ rest) = .ok (d, rest) := by
  simp only [takeDecimal, putDecimal, List.append_assoc, takeInt_putInt, takeNat_putNat, bind, Except.bind, pure,
    Except.pure]

/-- Counted bytes are taken back. -/
theorem takeCount_append (l rest : List Byte) : takeCount l.length (l ++ rest) = .ok (l, rest) := by
  induction l with
  | nil => rfl
  | cons b l ih => simp [takeCount, ih]

/-- A byte sequence is taken back. -/
theorem takeBytes_putBytes (l rest : List Byte) : takeBytes (putBytes l ++ rest) = .ok (l, rest) := by
  simp only [takeBytes, putBytes, List.append_assoc, takeNat_putNat, bind, Except.bind, takeCount_append]

/-- An address is taken back. -/
theorem takeAddr_putAddr (a : Addr) (rest : List Byte) : takeAddr (putAddr a :: rest) = .ok (a, rest) := by
  have h7 : (putAddr a).getLsbD 7 = false := by revert a; decide
  have h : (putAddr a).setWidth 7 = a := by revert a; decide
  simp only [takeAddr, h7, Bool.false_eq_true, if_false, h]

/-- A binary64 number is taken back. -/
theorem takeF64_putF64 (f : F64) (rest : List Byte) : takeF64 (putF64 f ++ rest) = .ok (f, rest) := by
  have h : BitVec.ofNat 64 (bigEndian (putF64 f)) = f := by
    apply BitVec.eq_of_toNat_eq
    simp only [bigEndian, putF64, List.foldl, BitVec.extractLsb'_toNat, BitVec.toNat_ofNat, Nat.shiftRight_eq_div_pow]
    have := f.isLt
    omega
  have ht := takeCount_append (putF64 f) rest
  rw [show (putF64 f).length = 8 from rfl] at ht
  simp only [takeF64, ht, bind, Except.bind, pure, Except.pure]
  exact congrArg (fun x => Except.ok (x, rest)) h

/-- A number of the format is taken back. -/
theorem takeNum_putNum {n : Numerics} {q : Number} (h : q.isOf n = true) (rest : List Byte) :
    takeNum n (putNum q ++ rest) = .ok (q, rest) := by
  cases n <;> cases q <;> simp only [Number.isOf, Bool.false_eq_true] at h
  · simp [takeNum, putNum, takeF64_putF64, bind, Except.bind, pure, Except.pure]
  · rename_i q
    simp [takeNum, putNum, takeInt_putInt, takeNat_putNat, bind, Except.bind, pure, Except.pure, Nat.sub_add_cancel q.den_pos,
      Rat.mkRat_self]
  · simp [takeNum, putNum, takeNat_putNat, bind, Except.bind, pure, Except.pure]

/-- A number that is taken is of the format. -/
theorem isOf_of_takeNum {n : Numerics} {bs : List Byte} {q : Number} {rest : List Byte} (h : takeNum n bs = .ok (q, rest)) :
    q.isOf n = true := by
  cases n <;> simp only [takeNum, bind, Except.bind, pure, Except.pure] at h
  · split at h
    · cases h
    · cases h; rfl
  · split at h
    · cases h
    · split at h
      · cases h
      · cases h; rfl
  · split at h
    · cases h
    · cases h; rfl

end Sys2Proof.Codec
end

