-- ==== Sys2Proof/Laws/Memory.lean ====
section
/-! SUPPORT. The laws of the device register space: a read after a write, and the canonical form, which every memory
operation keeps. -/

namespace Sys2Proof.Machine

/-- The cells rise strictly, said over all pairs. -/
theorem Memory.sorted_iff (mem : Memory) : Memory.sorted mem = true ↔ mem.Pairwise fun c d => c.1 < d.1 := by
  induction mem with
  | nil => simp [Memory.sorted]
  | cons c rest ih =>
    cases rest with
    | nil => simp [Memory.sorted]
    | cons d rest =>
      simp only [Memory.sorted, Bool.and_eq_true, decide_eq_true_eq, ih]
      constructor
      · rintro ⟨h, hp⟩
        refine List.pairwise_cons.2 ⟨fun x hx => ?_, hp⟩
        rcases List.mem_cons.1 hx with rfl | hx
        · exact h
        · exact h.trans ((List.pairwise_cons.1 hp).1 x hx)
      · intro hp
        have h := List.pairwise_cons.1 hp
        exact ⟨h.1 d (List.mem_cons_self ..), h.2⟩

/-- What an insertion can put in: the new cell, or an old one at another address. -/
theorem Memory.mem_insert {a : Nat} {v : Byte} {mem : Memory} {c : Host.Cell} (h : c ∈ Memory.insert a v mem) :
    c = (a, v) ∨ c ∈ mem := by
  induction mem with
  | nil => simpa [Memory.insert] using h
  | cons d rest ih =>
    simp only [Memory.insert] at h
    split at h
    · simpa using h
    · split at h
      · rcases List.mem_cons.1 h with h | h
        · exact .inl h
        · exact .inr (List.mem_cons_of_mem _ h)
      · rcases List.mem_cons.1 h with h | h
        · exact .inr (h ▸ List.mem_cons_self ..)
        · rcases ih h with h | h
          · exact .inl h
          · exact .inr (List.mem_cons_of_mem _ h)

theorem Memory.insert_pairwise {a : Nat} {v : Byte} {mem : Memory} (h : mem.Pairwise fun c d => c.1 < d.1) :
    (Memory.insert a v mem).Pairwise fun c d => c.1 < d.1 := by
  induction mem with
  | nil => simp [Memory.insert]
  | cons d rest ih =>
    have hd := List.pairwise_cons.1 h
    simp only [Memory.insert]
    split
    · rename_i hlt
      refine List.pairwise_cons.2 ⟨fun x hx => ?_, h⟩
      rcases List.mem_cons.1 hx with rfl | hx
      · exact hlt
      · exact lt_trans hlt (hd.1 x hx)
    · split
      · rename_i heq
        exact List.pairwise_cons.2 ⟨fun x hx => by simpa [heq] using hd.1 x hx, hd.2⟩
      · rename_i hlt hne
        refine List.pairwise_cons.2 ⟨fun x hx => ?_, ih hd.2⟩
        rcases Memory.mem_insert hx with rfl | hx
        · simp only; omega
        · exact hd.1 x hx

/-- An address of the register space: a write keeps the canonical form. -/
theorem Memory.write_wf {m : RegMap} {mem : Memory} {a : Nat} {v : Byte} (h : Memory.wf m mem = true) (ha : a ≤ addrMax) :
    Memory.wf m (Memory.write m mem a v) = true := by
  simp only [Memory.wf, Bool.and_eq_true, Memory.sorted_iff, List.all_eq_true, decide_eq_true_eq] at h ⊢
  obtain ⟨hs, hc⟩ := h
  by_cases hv : v = initialByte m a
  · simp only [Memory.write, hv, if_true]
    exact ⟨List.Pairwise.filter _ hs, fun c hm => hc c (List.mem_of_mem_filter hm)⟩
  · simp only [Memory.write, hv, if_false]
    refine ⟨Memory.insert_pairwise hs, fun c hm => ?_⟩
    rcases Memory.mem_insert hm with rfl | hm
    · exact ⟨ha, hv⟩
    · exact hc c hm

theorem Memory.nil_wf (m : RegMap) : Memory.wf m [] = true := rfl

theorem Memory.read_nil (m : RegMap) (a : Nat) : Memory.read m [] a = initialByte m a := rfl

theorem Memory.read_cons (m : RegMap) (c : Host.Cell) (mem : Memory) (a : Nat) :
    Memory.read m (c :: mem) a = if c.1 = a then c.2 else Memory.read m mem a := by
  by_cases h : c.1 = a <;> simp [Memory.read, h]

theorem Memory.read_insert (m : RegMap) (mem : Memory) (a b : Nat) (v : Byte) :
    Memory.read m (Memory.insert a v mem) b = if a = b then v else Memory.read m mem b := by
  induction mem with
  | nil => simp [Memory.insert, Memory.read_cons, Memory.read_nil]
  | cons d rest ih =>
    simp only [Memory.insert]
    split
    · simp [Memory.read_cons]
    · split
      · rename_i h
        simp only [Memory.read_cons, ← h]
        split <;> rfl
      · rename_i hne
        simp only [Memory.read_cons, ih]
        by_cases h1 : d.1 = b <;> by_cases h2 : a = b <;> simp [h1, h2]
        omega

theorem Memory.read_erase (m : RegMap) (mem : Memory) (a b : Nat) :
    Memory.read m (Memory.erase a mem) b = if a = b then initialByte m b else Memory.read m mem b := by
  induction mem with
  | nil => simp [Memory.erase, Memory.read_nil]
  | cons d rest ih =>
    simp only [Memory.erase, List.filter_cons] at ih ⊢
    by_cases h : d.1 = a
    · simp only [h, BEq.rfl, Bool.not_true, Bool.false_eq_true, if_false, ih, Memory.read_cons]
      split <;> rfl
    · simp only [beq_eq_false_iff_ne.2 h, Bool.not_false, if_true, Memory.read_cons, ih]
      by_cases h1 : d.1 = b <;> by_cases h2 : a = b <;> simp [h1, h2]
      omega

/-- A read after a write: the written byte at its address, every other address as before. -/
theorem Memory.read_write (m : RegMap) (mem : Memory) (a b : Nat) (v : Byte) :
    Memory.read m (Memory.write m mem a v) b = if a = b then v else Memory.read m mem b := by
  simp only [Memory.write]
  split
  · rename_i h
    rw [Memory.read_erase]
    split
    · rename_i hab; rw [h, hab]
    · rfl
  · exact Memory.read_insert m mem a b v

end Sys2Proof.Machine
end

