-- ==== Sys2Proof/Laws/Env.lean ====
section
/-! SUPPORT. What each collaborator call and each access primitive can do, said once. -/

namespace Sys2Proof.Machine

@[simp] theorem Env.record_device (e : Env) (ev : Event) : (e.record ev).device = e.device := rfl
@[simp] theorem Env.record_cues (e : Env) (ev : Event) : (e.record ev).cues = e.cues := rfl
@[simp] theorem Env.record_readyCues (e : Env) (ev : Event) : (e.record ev).readyCues = e.readyCues := rfl
@[simp] theorem Env.record_history (e : Env) (ev : Event) : (e.record ev).history = e.history ++ [ev] := rfl

/-- Reading back a read frame (R95). -/
theorem parseFrame_readFrame (a : Addr) {n : Nat} (h : n ≠ 0) : parseFrame (readFrame a n) = .read a n := by
  have hb : (readCommand a).getLsbD 0 = true := by revert a; decide
  have ha : ((readCommand a) >>> 1).setWidth 7 = a := by revert a; decide
  simp only [readFrame, parseFrame, hb, if_true, List.length_replicate, h, if_false, ha]

/-- Reading back a write frame (R95). -/
theorem parseFrame_writeFrame (a : Addr) (v : Byte) : parseFrame (writeFrame a v) = .write a v := by
  have hb : (writeCommand a).getLsbD 0 = false := by revert a; decide
  have ha : ((writeCommand a) >>> 1).setWidth 7 = a := by revert a; decide
  simp only [writeFrame, parseFrame, hb, ha, Bool.false_eq_true, if_false]

/-- The reference device's registers after a frame: one write to a writable address, or nothing. -/
theorem RefDevice.receive_mem {m : RegMap} {d d' : RefDevice} {f : Frame} {resp : List Byte}
    (h : d.receive m f = some (d', resp)) :
    d'.mem = d.mem ∨ ∃ a v, parseFrame f = .write a v ∧ writable m a = true ∧ a.toNat ≤ addrMax ∧
      d'.mem = Memory.write m d.mem a.toNat v := by
  simp only [RefDevice.receive] at h
  split at h
  · split at h
    · split at h
      · simp only [RefDevice.popFifo] at h
        split at h <;> (injection h with h; injection h with h _; subst h; exact .inl rfl)
      · cases h
    · injection h with h; injection h with h _; subst h; exact .inl rfl
  · rename_i a v hp
    injection h with h; injection h with h _; subst h
    simp only [RefDevice.writeReg]
    split
    · rename_i hw; exact .inr ⟨a, v, hp, hw.1, hw.2, rfl⟩
    · exact .inl rfl
  · cases h

/-- The reference device's FIFO after a frame: as before, or without its head, and then the frame was a 3-byte read at
`FIFO_DATA`. -/
theorem RefDevice.receive_fifo {m : RegMap} {d d' : RefDevice} {f : Frame} {resp : List Byte}
    (h : d.receive m f = some (d', resp)) :
    d'.fifo = d.fifo ∨ (parseFrame f = .read m.fifoData 3 ∧ d'.fifo = d.fifo.tail) := by
  simp only [RefDevice.receive] at h
  split at h
  · rename_i a n hp
    split at h
    · rename_i ha
      split at h
      · rename_i hn
        subst ha; subst hn
        simp only [RefDevice.popFifo] at h
        split at h
        · rename_i hf
          injection h with h; injection h with h _; subst h
          exact .inr ⟨hp, by simp_all⟩
        · injection h with h; injection h with h _; subst h; exact .inl rfl
      · cases h
    · injection h with h; injection h with h _; subst h; exact .inl rfl
  · injection h with h; injection h with h _; subst h
    simp only [RefDevice.writeReg]
    split <;> exact .inl rfl
  · cases h

/-- The reference device keeps its registers in canonical form. -/
theorem RefDevice.receive_wf {m : RegMap} {d d' : RefDevice} {f : Frame} {resp : List Byte}
    (h : d.receive m f = some (d', resp)) (hw : Memory.wf m d.mem = true) : Memory.wf m d'.mem = true := by
  rcases RefDevice.receive_mem h with h | ⟨a, v, -, -, ha, h⟩
  · rw [h]; exact hw
  · rw [h]; exact Memory.write_wf hw ha

/-- A device still attached after an answer is the one that was attached, after the frame. -/
theorem Env.deviceAnswer_device {m : RegMap} {e : Env} {f : Frame} {d' : RefDevice}
    (h : (e.deviceAnswer m f).1 = some d') : ∃ d resp, e.device = some d ∧ d.receive m f = some (d', resp) := by
  simp only [Env.deviceAnswer] at h
  split at h
  · cases h
  · rename_i d hd
    split at h
    · rename_i d2 resp hr
      simp only [Option.some.injEq] at h
      subst h
      exact ⟨d, resp, hd, hr⟩
    · cases h

/-- A transfer adds itself, with its answer, to the record (R74). -/
theorem Env.transfer_history (m : RegMap) (e : Env) (f : Frame) :
    (e.transfer m f).1.history = e.history ++ [.transfer f (e.transfer m f).2] := by
  simp only [Env.transfer]
  split <;> simp

/-- A transfer leaves the ready cues. -/
theorem Env.transfer_readyCues (m : RegMap) (e : Env) (f : Frame) : (e.transfer m f).1.readyCues = e.readyCues := by
  simp only [Env.transfer]
  split <;> simp

/-- A transfer uses up one cue. -/
theorem Env.transfer_cues (m : RegMap) (e : Env) (f : Frame) : (e.transfer m f).1.cues = e.cues.tail := by
  simp only [Env.transfer]
  split <;> simp_all

/-- A device attached after a transfer is the one attached before, untouched or after the frame. -/
theorem Env.transfer_device {m : RegMap} {e : Env} {f : Frame} {d' : RefDevice}
    (h : (e.transfer m f).1.device = some d') :
    ∃ d, e.device = some d ∧ (d' = d ∨ ∃ resp, d.receive m f = some (d', resp)) := by
  simp only [Env.transfer] at h
  split at h
  · obtain ⟨d, r, hd, hr⟩ := Env.deviceAnswer_device (m := m) (e := e) (f := f) h
    exact ⟨d, hd, .inr ⟨r, hr⟩⟩
  · obtain ⟨d, r, hd, hr⟩ := Env.deviceAnswer_device (m := m) (e := e) (f := f) h
    exact ⟨d, hd, .inr ⟨r, hr⟩⟩
  · exact ⟨d', h, .inl rfl⟩
  · obtain ⟨d, r, hd, hr⟩ := Env.deviceAnswer_device (m := m) (e := e) (f := f) h
    exact ⟨d, hd, .inr ⟨r, hr⟩⟩

/-- A ready sample adds itself, with its answer, to the record (R74). -/
theorem Env.digitalRead_history (e : Env) (p : Pin) :
    (e.digitalRead p).1.history = e.history ++ [.digitalRead p (e.digitalRead p).2] := by
  simp only [Env.digitalRead]
  split <;> simp

/-- A ready sample leaves the transfer cues. -/
theorem Env.digitalRead_cues (e : Env) (p : Pin) : (e.digitalRead p).1.cues = e.cues := by
  simp only [Env.digitalRead]
  split <;> simp

/-- A ready sample leaves the device but for the level of its line. -/
theorem Env.digitalRead_device {e : Env} {p : Pin} {d' : RefDevice} (h : (e.digitalRead p).1.device = some d') :
    ∃ d, e.device = some d ∧ d'.mem = d.mem ∧ d'.fifo = d.fifo ∧ d'.log = d.log := by
  simp only [Env.digitalRead] at h
  split at h
  · simp only [Env.record_device, Option.map_eq_some_iff] at h
    obtain ⟨d, hd, rfl⟩ := h
    exact ⟨d, hd, rfl, rfl, rfl⟩
  · exact ⟨d', h, rfl, rfl, rfl⟩
  · exact ⟨d', h, rfl, rfl, rfl⟩

@[simp] theorem Env.sleep_device (e : Env) (t : Ticks) : (e.sleep t).device = e.device := rfl
@[simp] theorem Env.sleep_cues (e : Env) (t : Ticks) : (e.sleep t).cues = e.cues := rfl
@[simp] theorem Env.sleep_readyCues (e : Env) (t : Ticks) : (e.sleep t).readyCues = e.readyCues := rfl
@[simp] theorem Env.sleep_history (e : Env) (t : Ticks) : (e.sleep t).history = e.history ++ [.sleep t] := rfl

/-- What `RegRead` does to the environment: one transfer of the read frame, or nothing for `n = 0`. -/
theorem Env.regRead_env (m : RegMap) (e : Env) (a : Addr) (n : Nat) :
    (e.regRead m a n).1 = if n = 0 then e else (e.transfer m (readFrame a n)).1 := by
  by_cases h : n = 0
  · simp [Env.regRead, encodeRead, h]
  · simp only [Env.regRead, encodeRead, h, if_false]
    split
    · rename_i heq; rw [heq]
    · rename_i heq
      split <;> rw [heq]

/-- What `RegWrite` does to the environment: one transfer of the write frame. -/
theorem Env.regWrite_env (m : RegMap) (e : Env) (a : Addr) (v : Byte) :
    (e.regWrite m a v).1 = (e.transfer m (writeFrame a v)).1 := by
  simp only [Env.regWrite, encodeWrite]
  split
  · rename_i heq; rw [heq]
  · rename_i heq
    split <;> rw [heq]

/-- A `RegRead` that succeeds gives exactly `n` bytes, the response without its first byte (R66, R132). -/
theorem Env.regRead_ok {m : RegMap} {e e' : Env} {a : Addr} {n : Nat} {p : List Byte}
    (h : e.regRead m a n = (e', .ok p)) :
    n ≠ 0 ∧ p.length = n ∧ ∃ b, e.transfer m (readFrame a n) = (e', .respond (b :: p)) := by
  by_cases hn : n = 0
  · simp [Env.regRead, encodeRead, hn] at h
  · refine ⟨hn, ?_⟩
    simp only [Env.regRead, encodeRead, hn, if_false] at h
    split at h
    · simp at h
    · rename_i e2 resp heq
      split at h
      · rename_i hl
        cases resp with
        | nil => simp at hl
        | cons b p' =>
          simp only [decodeReadResponse, Prod.mk.injEq, Except.ok.injEq] at h
          obtain ⟨rfl, rfl⟩ := h
          exact ⟨by simpa using hl, b, heq⟩
      · simp at h

/-- A `RegWrite` that succeeds got two bytes back (R67). -/
theorem Env.regWrite_ok {m : RegMap} {e e' : Env} {a : Addr} {v : Byte} (h : e.regWrite m a v = (e', .ok ())) :
    ∃ b c, e.transfer m (writeFrame a v) = (e', .respond [b, c]) := by
  simp only [Env.regWrite, encodeWrite] at h
  split at h
  · simp at h
  · rename_i e2 resp heq
    split at h
    · rename_i hl
      simp only [Prod.mk.injEq, and_true] at h
      subst h
      match resp, hl with
      | [b, c], _ => exact ⟨b, c, heq⟩
    · simp at h

end Sys2Proof.Machine
end

