-- ==== Sys2Proof/Laws/State.lean ====
section
/-! SUPPORT. What each named update of the state does to each field: one lemma per field per update, so that no later proof
unfolds a record update. -/

namespace Sys2Proof.Machine

/-! ### `State.withEnv` -/

@[simp] theorem State.withEnv_cfg (s : State) (e : Env) : (s.withEnv e).cfg = s.cfg := rfl
@[simp] theorem State.withEnv_rangeSel (s : State) (e : Env) : (s.withEnv e).rangeSel = s.rangeSel := rfl
@[simp] theorem State.withEnv_odrSel (s : State) (e : Env) : (s.withEnv e).odrSel = s.odrSel := rfl
@[simp] theorem State.withEnv_hpfSel (s : State) (e : Env) : (s.withEnv e).hpfSel = s.hpfSel := rfl
@[simp] theorem State.withEnv_scale (s : State) (e : Env) : (s.withEnv e).scale = s.scale := rfl
@[simp] theorem State.withEnv_acc (s : State) (e : Env) : (s.withEnv e).acc = s.acc := rfl
@[simp] theorem State.withEnv_slot (s : State) (e : Env) : (s.withEnv e).slot = s.slot := rfl
@[simp] theorem State.withEnv_xl (s : State) (e : Env) : (s.withEnv e).xl = s.xl := rfl
@[simp] theorem State.withEnv_yl (s : State) (e : Env) : (s.withEnv e).yl = s.yl := rfl
@[simp] theorem State.withEnv_elapsed (s : State) (e : Env) : (s.withEnv e).elapsed = s.elapsed := rfl
@[simp] theorem State.withEnv_tmp (s : State) (e : Env) : (s.withEnv e).tmp = s.tmp := rfl
@[simp] theorem State.withEnv_op (s : State) (e : Env) : (s.withEnv e).op = s.op := rfl
@[simp] theorem State.withEnv_fsm (s : State) (e : Env) : (s.withEnv e).fsm = s.fsm := rfl
@[simp] theorem State.withEnv_err (s : State) (e : Env) : (s.withEnv e).err = s.err := rfl
@[simp] theorem State.withEnv_info (s : State) (e : Env) : (s.withEnv e).info = s.info := rfl
@[simp] theorem State.withEnv_warn (s : State) (e : Env) : (s.withEnv e).warn = s.warn := rfl
@[simp] theorem State.withEnv_res (s : State) (e : Env) : (s.withEnv e).res = s.res := rfl
@[simp] theorem State.withEnv_env (s : State) (e : Env) : (s.withEnv e).env = e := rfl
@[simp] theorem State.withEnv_port (s : State) (e : Env) : (s.withEnv e).port = s.port := rfl
@[simp] theorem State.withEnv_resetIn (s : State) (e : Env) : (s.withEnv e).resetIn = s.resetIn := rfl
@[simp] theorem State.withEnv_fuel (s : State) (e : Env) : (s.withEnv e).fuel = s.fuel := rfl
@[simp] theorem State.withEnv_freeSeq (s : State) (e : Env) : (s.withEnv e).freeSeq = s.freeSeq := rfl

/-! ### `State.goOn` -/

@[simp] theorem State.goOn_cfg (s : State) (r : Running) : (s.goOn r).cfg = s.cfg := rfl
@[simp] theorem State.goOn_rangeSel (s : State) (r : Running) : (s.goOn r).rangeSel = s.rangeSel := rfl
@[simp] theorem State.goOn_odrSel (s : State) (r : Running) : (s.goOn r).odrSel = s.odrSel := rfl
@[simp] theorem State.goOn_hpfSel (s : State) (r : Running) : (s.goOn r).hpfSel = s.hpfSel := rfl
@[simp] theorem State.goOn_scale (s : State) (r : Running) : (s.goOn r).scale = s.scale := rfl
@[simp] theorem State.goOn_acc (s : State) (r : Running) : (s.goOn r).acc = s.acc := rfl
@[simp] theorem State.goOn_slot (s : State) (r : Running) : (s.goOn r).slot = s.slot := rfl
@[simp] theorem State.goOn_xl (s : State) (r : Running) : (s.goOn r).xl = s.xl := rfl
@[simp] theorem State.goOn_yl (s : State) (r : Running) : (s.goOn r).yl = s.yl := rfl
@[simp] theorem State.goOn_elapsed (s : State) (r : Running) : (s.goOn r).elapsed = s.elapsed := rfl
@[simp] theorem State.goOn_tmp (s : State) (r : Running) : (s.goOn r).tmp = s.tmp := rfl
@[simp] theorem State.goOn_op (s : State) (r : Running) : (s.goOn r).op = some r := rfl
@[simp] theorem State.goOn_fsm (s : State) (r : Running) : (s.goOn r).fsm = s.fsm := rfl
@[simp] theorem State.goOn_err (s : State) (r : Running) : (s.goOn r).err = s.err := rfl
@[simp] theorem State.goOn_info (s : State) (r : Running) : (s.goOn r).info = s.info := rfl
@[simp] theorem State.goOn_warn (s : State) (r : Running) : (s.goOn r).warn = s.warn := rfl
@[simp] theorem State.goOn_res (s : State) (r : Running) : (s.goOn r).res = s.res := rfl
@[simp] theorem State.goOn_env (s : State) (r : Running) : (s.goOn r).env = s.env := rfl
@[simp] theorem State.goOn_port (s : State) (r : Running) : (s.goOn r).port = s.port := rfl
@[simp] theorem State.goOn_resetIn (s : State) (r : Running) : (s.goOn r).resetIn = s.resetIn := rfl
@[simp] theorem State.goOn_fuel (s : State) (r : Running) : (s.goOn r).fuel = s.fuel := rfl
@[simp] theorem State.goOn_freeSeq (s : State) (r : Running) : (s.goOn r).freeSeq = s.freeSeq := rfl

/-! ### `State.setFsm` -/

@[simp] theorem State.setFsm_cfg (s : State) (f : Fsm) : (s.setFsm f).cfg = s.cfg := rfl
@[simp] theorem State.setFsm_rangeSel (s : State) (f : Fsm) : (s.setFsm f).rangeSel = s.rangeSel := rfl
@[simp] theorem State.setFsm_odrSel (s : State) (f : Fsm) : (s.setFsm f).odrSel = s.odrSel := rfl
@[simp] theorem State.setFsm_hpfSel (s : State) (f : Fsm) : (s.setFsm f).hpfSel = s.hpfSel := rfl
@[simp] theorem State.setFsm_scale (s : State) (f : Fsm) : (s.setFsm f).scale = s.scale := rfl
@[simp] theorem State.setFsm_acc (s : State) (f : Fsm) : (s.setFsm f).acc = s.acc := rfl
@[simp] theorem State.setFsm_slot (s : State) (f : Fsm) : (s.setFsm f).slot = s.slot := rfl
@[simp] theorem State.setFsm_xl (s : State) (f : Fsm) : (s.setFsm f).xl = s.xl := rfl
@[simp] theorem State.setFsm_yl (s : State) (f : Fsm) : (s.setFsm f).yl = s.yl := rfl
@[simp] theorem State.setFsm_elapsed (s : State) (f : Fsm) : (s.setFsm f).elapsed = s.elapsed := rfl
@[simp] theorem State.setFsm_tmp (s : State) (f : Fsm) : (s.setFsm f).tmp = s.tmp := rfl
@[simp] theorem State.setFsm_op (s : State) (f : Fsm) : (s.setFsm f).op = s.op := rfl
@[simp] theorem State.setFsm_fsm (s : State) (f : Fsm) : (s.setFsm f).fsm = f := rfl
@[simp] theorem State.setFsm_err (s : State) (f : Fsm) : (s.setFsm f).err = s.err := rfl
@[simp] theorem State.setFsm_info (s : State) (f : Fsm) : (s.setFsm f).info = s.info := rfl
@[simp] theorem State.setFsm_warn (s : State) (f : Fsm) : (s.setFsm f).warn = s.warn := rfl
@[simp] theorem State.setFsm_res (s : State) (f : Fsm) : (s.setFsm f).res = s.res := rfl
@[simp] theorem State.setFsm_env (s : State) (f : Fsm) : (s.setFsm f).env = s.env := rfl
@[simp] theorem State.setFsm_port (s : State) (f : Fsm) : (s.setFsm f).port = s.port := rfl
@[simp] theorem State.setFsm_resetIn (s : State) (f : Fsm) : (s.setFsm f).resetIn = s.resetIn := rfl
@[simp] theorem State.setFsm_fuel (s : State) (f : Fsm) : (s.setFsm f).fuel = s.fuel := rfl
@[simp] theorem State.setFsm_freeSeq (s : State) (f : Fsm) : (s.setFsm f).freeSeq = s.freeSeq := rfl

/-! ### `State.setTmp` -/

@[simp] theorem State.setTmp_cfg (s : State) (v : Byte) : (s.setTmp v).cfg = s.cfg := rfl
@[simp] theorem State.setTmp_rangeSel (s : State) (v : Byte) : (s.setTmp v).rangeSel = s.rangeSel := rfl
@[simp] theorem State.setTmp_odrSel (s : State) (v : Byte) : (s.setTmp v).odrSel = s.odrSel := rfl
@[simp] theorem State.setTmp_hpfSel (s : State) (v : Byte) : (s.setTmp v).hpfSel = s.hpfSel := rfl
@[simp] theorem State.setTmp_scale (s : State) (v : Byte) : (s.setTmp v).scale = s.scale := rfl
@[simp] theorem State.setTmp_acc (s : State) (v : Byte) : (s.setTmp v).acc = s.acc := rfl
@[simp] theorem State.setTmp_slot (s : State) (v : Byte) : (s.setTmp v).slot = s.slot := rfl
@[simp] theorem State.setTmp_xl (s : State) (v : Byte) : (s.setTmp v).xl = s.xl := rfl
@[simp] theorem State.setTmp_yl (s : State) (v : Byte) : (s.setTmp v).yl = s.yl := rfl
@[simp] theorem State.setTmp_elapsed (s : State) (v : Byte) : (s.setTmp v).elapsed = s.elapsed := rfl
@[simp] theorem State.setTmp_tmp (s : State) (v : Byte) : (s.setTmp v).tmp = v := rfl
@[simp] theorem State.setTmp_op (s : State) (v : Byte) : (s.setTmp v).op = s.op := rfl
@[simp] theorem State.setTmp_fsm (s : State) (v : Byte) : (s.setTmp v).fsm = s.fsm := rfl
@[simp] theorem State.setTmp_err (s : State) (v : Byte) : (s.setTmp v).err = s.err := rfl
@[simp] theorem State.setTmp_info (s : State) (v : Byte) : (s.setTmp v).info = s.info := rfl
@[simp] theorem State.setTmp_warn (s : State) (v : Byte) : (s.setTmp v).warn = s.warn := rfl
@[simp] theorem State.setTmp_res (s : State) (v : Byte) : (s.setTmp v).res = s.res := rfl
@[simp] theorem State.setTmp_env (s : State) (v : Byte) : (s.setTmp v).env = s.env := rfl
@[simp] theorem State.setTmp_port (s : State) (v : Byte) : (s.setTmp v).port = s.port := rfl
@[simp] theorem State.setTmp_resetIn (s : State) (v : Byte) : (s.setTmp v).resetIn = s.resetIn := rfl
@[simp] theorem State.setTmp_fuel (s : State) (v : Byte) : (s.setTmp v).fuel = s.fuel := rfl
@[simp] theorem State.setTmp_freeSeq (s : State) (v : Byte) : (s.setTmp v).freeSeq = s.freeSeq := rfl

/-! ### `State.commitRange` -/

@[simp] theorem State.commitRange_cfg (s : State) (k : Decimal) : (s.commitRange k).cfg = s.cfg := rfl
@[simp] theorem State.commitRange_rangeSel (s : State) (k : Decimal) : (s.commitRange k).rangeSel = some k := rfl
@[simp] theorem State.commitRange_odrSel (s : State) (k : Decimal) : (s.commitRange k).odrSel = s.odrSel := rfl
@[simp] theorem State.commitRange_hpfSel (s : State) (k : Decimal) : (s.commitRange k).hpfSel = s.hpfSel := rfl
@[simp] theorem State.commitRange_scale (s : State) (k : Decimal) : (s.commitRange k).scale = some (scaleOf s.cfg.numerics k) := rfl
@[simp] theorem State.commitRange_acc (s : State) (k : Decimal) : (s.commitRange k).acc = s.acc := rfl
@[simp] theorem State.commitRange_slot (s : State) (k : Decimal) : (s.commitRange k).slot = s.slot := rfl
@[simp] theorem State.commitRange_xl (s : State) (k : Decimal) : (s.commitRange k).xl = s.xl := rfl
@[simp] theorem State.commitRange_yl (s : State) (k : Decimal) : (s.commitRange k).yl = s.yl := rfl
@[simp] theorem State.commitRange_elapsed (s : State) (k : Decimal) : (s.commitRange k).elapsed = s.elapsed := rfl
@[simp] theorem State.commitRange_tmp (s : State) (k : Decimal) : (s.commitRange k).tmp = s.tmp := rfl
@[simp] theorem State.commitRange_op (s : State) (k : Decimal) : (s.commitRange k).op = s.op := rfl
@[simp] theorem State.commitRange_fsm (s : State) (k : Decimal) : (s.commitRange k).fsm = s.fsm := rfl
@[simp] theorem State.commitRange_err (s : State) (k : Decimal) : (s.commitRange k).err = s.err := rfl
@[simp] theorem State.commitRange_info (s : State) (k : Decimal) : (s.commitRange k).info = s.info := rfl
@[simp] theorem State.commitRange_warn (s : State) (k : Decimal) : (s.commitRange k).warn = s.warn := rfl
@[simp] theorem State.commitRange_res (s : State) (k : Decimal) : (s.commitRange k).res = s.res := rfl
@[simp] theorem State.commitRange_env (s : State) (k : Decimal) : (s.commitRange k).env = s.env := rfl
@[simp] theorem State.commitRange_port (s : State) (k : Decimal) : (s.commitRange k).port = s.port := rfl
@[simp] theorem State.commitRange_resetIn (s : State) (k : Decimal) : (s.commitRange k).resetIn = s.resetIn := rfl
@[simp] theorem State.commitRange_fuel (s : State) (k : Decimal) : (s.commitRange k).fuel = s.fuel := rfl
@[simp] theorem State.commitRange_freeSeq (s : State) (k : Decimal) : (s.commitRange k).freeSeq = s.freeSeq := rfl

/-! ### `State.commitFilter` -/

@[simp] theorem State.commitFilter_cfg (s : State) (d : Decimal) (h : Int) : (s.commitFilter d h).cfg = s.cfg := rfl
@[simp] theorem State.commitFilter_rangeSel (s : State) (d : Decimal) (h : Int) : (s.commitFilter d h).rangeSel = s.rangeSel := rfl
@[simp] theorem State.commitFilter_odrSel (s : State) (d : Decimal) (h : Int) : (s.commitFilter d h).odrSel = some d := rfl
@[simp] theorem State.commitFilter_hpfSel (s : State) (d : Decimal) (h : Int) : (s.commitFilter d h).hpfSel = some h := rfl
@[simp] theorem State.commitFilter_scale (s : State) (d : Decimal) (h : Int) : (s.commitFilter d h).scale = s.scale := rfl
@[simp] theorem State.commitFilter_acc (s : State) (d : Decimal) (h : Int) : (s.commitFilter d h).acc = s.acc := rfl
@[simp] theorem State.commitFilter_slot (s : State) (d : Decimal) (h : Int) : (s.commitFilter d h).slot = s.slot := rfl
@[simp] theorem State.commitFilter_xl (s : State) (d : Decimal) (h : Int) : (s.commitFilter d h).xl = s.xl := rfl
@[simp] theorem State.commitFilter_yl (s : State) (d : Decimal) (h : Int) : (s.commitFilter d h).yl = s.yl := rfl
@[simp] theorem State.commitFilter_elapsed (s : State) (d : Decimal) (h : Int) : (s.commitFilter d h).elapsed = s.elapsed := rfl
@[simp] theorem State.commitFilter_tmp (s : State) (d : Decimal) (h : Int) : (s.commitFilter d h).tmp = s.tmp := rfl
@[simp] theorem State.commitFilter_op (s : State) (d : Decimal) (h : Int) : (s.commitFilter d h).op = s.op := rfl
@[simp] theorem State.commitFilter_fsm (s : State) (d : Decimal) (h : Int) : (s.commitFilter d h).fsm = s.fsm := rfl
@[simp] theorem State.commitFilter_err (s : State) (d : Decimal) (h : Int) : (s.commitFilter d h).err = s.err := rfl
@[simp] theorem State.commitFilter_info (s : State) (d : Decimal) (h : Int) : (s.commitFilter d h).info = s.info := rfl
@[simp] theorem State.commitFilter_warn (s : State) (d : Decimal) (h : Int) : (s.commitFilter d h).warn = s.warn := rfl
@[simp] theorem State.commitFilter_res (s : State) (d : Decimal) (h : Int) : (s.commitFilter d h).res = s.res := rfl
@[simp] theorem State.commitFilter_env (s : State) (d : Decimal) (h : Int) : (s.commitFilter d h).env = s.env := rfl
@[simp] theorem State.commitFilter_port (s : State) (d : Decimal) (h : Int) : (s.commitFilter d h).port = s.port := rfl
@[simp] theorem State.commitFilter_resetIn (s : State) (d : Decimal) (h : Int) : (s.commitFilter d h).resetIn = s.resetIn := rfl
@[simp] theorem State.commitFilter_fuel (s : State) (d : Decimal) (h : Int) : (s.commitFilter d h).fuel = s.fuel := rfl
@[simp] theorem State.commitFilter_freeSeq (s : State) (d : Decimal) (h : Int) : (s.commitFilter d h).freeSeq = s.freeSeq := rfl

/-! ### `State.setElapsed` -/

@[simp] theorem State.setElapsed_cfg (s : State) (t : Ticks) : (s.setElapsed t).cfg = s.cfg := rfl
@[simp] theorem State.setElapsed_rangeSel (s : State) (t : Ticks) : (s.setElapsed t).rangeSel = s.rangeSel := rfl
@[simp] theorem State.setElapsed_odrSel (s : State) (t : Ticks) : (s.setElapsed t).odrSel = s.odrSel := rfl
@[simp] theorem State.setElapsed_hpfSel (s : State) (t : Ticks) : (s.setElapsed t).hpfSel = s.hpfSel := rfl
@[simp] theorem State.setElapsed_scale (s : State) (t : Ticks) : (s.setElapsed t).scale = s.scale := rfl
@[simp] theorem State.setElapsed_acc (s : State) (t : Ticks) : (s.setElapsed t).acc = s.acc := rfl
@[simp] theorem State.setElapsed_slot (s : State) (t : Ticks) : (s.setElapsed t).slot = s.slot := rfl
@[simp] theorem State.setElapsed_xl (s : State) (t : Ticks) : (s.setElapsed t).xl = s.xl := rfl
@[simp] theorem State.setElapsed_yl (s : State) (t : Ticks) : (s.setElapsed t).yl = s.yl := rfl
@[simp] theorem State.setElapsed_elapsed (s : State) (t : Ticks) : (s.setElapsed t).elapsed = t := rfl
@[simp] theorem State.setElapsed_tmp (s : State) (t : Ticks) : (s.setElapsed t).tmp = s.tmp := rfl
@[simp] theorem State.setElapsed_op (s : State) (t : Ticks) : (s.setElapsed t).op = s.op := rfl
@[simp] theorem State.setElapsed_fsm (s : State) (t : Ticks) : (s.setElapsed t).fsm = s.fsm := rfl
@[simp] theorem State.setElapsed_err (s : State) (t : Ticks) : (s.setElapsed t).err = s.err := rfl
@[simp] theorem State.setElapsed_info (s : State) (t : Ticks) : (s.setElapsed t).info = s.info := rfl
@[simp] theorem State.setElapsed_warn (s : State) (t : Ticks) : (s.setElapsed t).warn = s.warn := rfl
@[simp] theorem State.setElapsed_res (s : State) (t : Ticks) : (s.setElapsed t).res = s.res := rfl
@[simp] theorem State.setElapsed_env (s : State) (t : Ticks) : (s.setElapsed t).env = s.env := rfl
@[simp] theorem State.setElapsed_port (s : State) (t : Ticks) : (s.setElapsed t).port = s.port := rfl
@[simp] theorem State.setElapsed_resetIn (s : State) (t : Ticks) : (s.setElapsed t).resetIn = s.resetIn := rfl
@[simp] theorem State.setElapsed_fuel (s : State) (t : Ticks) : (s.setElapsed t).fuel = s.fuel := rfl
@[simp] theorem State.setElapsed_freeSeq (s : State) (t : Ticks) : (s.setElapsed t).freeSeq = s.freeSeq := rfl

/-! ### `State.setSlot` -/

@[simp] theorem State.setSlot_cfg (s : State) (a : Axis) : (s.setSlot a).cfg = s.cfg := rfl
@[simp] theorem State.setSlot_rangeSel (s : State) (a : Axis) : (s.setSlot a).rangeSel = s.rangeSel := rfl
@[simp] theorem State.setSlot_odrSel (s : State) (a : Axis) : (s.setSlot a).odrSel = s.odrSel := rfl
@[simp] theorem State.setSlot_hpfSel (s : State) (a : Axis) : (s.setSlot a).hpfSel = s.hpfSel := rfl
@[simp] theorem State.setSlot_scale (s : State) (a : Axis) : (s.setSlot a).scale = s.scale := rfl
@[simp] theorem State.setSlot_acc (s : State) (a : Axis) : (s.setSlot a).acc = s.acc := rfl
@[simp] theorem State.setSlot_slot (s : State) (a : Axis) : (s.setSlot a).slot = a := rfl
@[simp] theorem State.setSlot_xl (s : State) (a : Axis) : (s.setSlot a).xl = s.xl := rfl
@[simp] theorem State.setSlot_yl (s : State) (a : Axis) : (s.setSlot a).yl = s.yl := rfl
@[simp] theorem State.setSlot_elapsed (s : State) (a : Axis) : (s.setSlot a).elapsed = s.elapsed := rfl
@[simp] theorem State.setSlot_tmp (s : State) (a : Axis) : (s.setSlot a).tmp = s.tmp := rfl
@[simp] theorem State.setSlot_op (s : State) (a : Axis) : (s.setSlot a).op = s.op := rfl
@[simp] theorem State.setSlot_fsm (s : State) (a : Axis) : (s.setSlot a).fsm = s.fsm := rfl
@[simp] theorem State.setSlot_err (s : State) (a : Axis) : (s.setSlot a).err = s.err := rfl
@[simp] theorem State.setSlot_info (s : State) (a : Axis) : (s.setSlot a).info = s.info := rfl
@[simp] theorem State.setSlot_warn (s : State) (a : Axis) : (s.setSlot a).warn = s.warn := rfl
@[simp] theorem State.setSlot_res (s : State) (a : Axis) : (s.setSlot a).res = s.res := rfl
@[simp] theorem State.setSlot_env (s : State) (a : Axis) : (s.setSlot a).env = s.env := rfl
@[simp] theorem State.setSlot_port (s : State) (a : Axis) : (s.setSlot a).port = s.port := rfl
@[simp] theorem State.setSlot_resetIn (s : State) (a : Axis) : (s.setSlot a).resetIn = s.resetIn := rfl
@[simp] theorem State.setSlot_fuel (s : State) (a : Axis) : (s.setSlot a).fuel = s.fuel := rfl
@[simp] theorem State.setSlot_freeSeq (s : State) (a : Axis) : (s.setSlot a).freeSeq = s.freeSeq := rfl

/-! ### `State.setXl` -/

@[simp] theorem State.setXl_cfg (s : State) (p : Payload) : (s.setXl p).cfg = s.cfg := rfl
@[simp] theorem State.setXl_rangeSel (s : State) (p : Payload) : (s.setXl p).rangeSel = s.rangeSel := rfl
@[simp] theorem State.setXl_odrSel (s : State) (p : Payload) : (s.setXl p).odrSel = s.odrSel := rfl
@[simp] theorem State.setXl_hpfSel (s : State) (p : Payload) : (s.setXl p).hpfSel = s.hpfSel := rfl
@[simp] theorem State.setXl_scale (s : State) (p : Payload) : (s.setXl p).scale = s.scale := rfl
@[simp] theorem State.setXl_acc (s : State) (p : Payload) : (s.setXl p).acc = s.acc := rfl
@[simp] theorem State.setXl_slot (s : State) (p : Payload) : (s.setXl p).slot = s.slot := rfl
@[simp] theorem State.setXl_xl (s : State) (p : Payload) : (s.setXl p).xl = p := rfl
@[simp] theorem State.setXl_yl (s : State) (p : Payload) : (s.setXl p).yl = s.yl := rfl
@[simp] theorem State.setXl_elapsed (s : State) (p : Payload) : (s.setXl p).elapsed = s.elapsed := rfl
@[simp] theorem State.setXl_tmp (s : State) (p : Payload) : (s.setXl p).tmp = s.tmp := rfl
@[simp] theorem State.setXl_op (s : State) (p : Payload) : (s.setXl p).op = s.op := rfl
@[simp] theorem State.setXl_fsm (s : State) (p : Payload) : (s.setXl p).fsm = s.fsm := rfl
@[simp] theorem State.setXl_err (s : State) (p : Payload) : (s.setXl p).err = s.err := rfl
@[simp] theorem State.setXl_info (s : State) (p : Payload) : (s.setXl p).info = s.info := rfl
@[simp] theorem State.setXl_warn (s : State) (p : Payload) : (s.setXl p).warn = s.warn := rfl
@[simp] theorem State.setXl_res (s : State) (p : Payload) : (s.setXl p).res = s.res := rfl
@[simp] theorem State.setXl_env (s : State) (p : Payload) : (s.setXl p).env = s.env := rfl
@[simp] theorem State.setXl_port (s : State) (p : Payload) : (s.setXl p).port = s.port := rfl
@[simp] theorem State.setXl_resetIn (s : State) (p : Payload) : (s.setXl p).resetIn = s.resetIn := rfl
@[simp] theorem State.setXl_fuel (s : State) (p : Payload) : (s.setXl p).fuel = s.fuel := rfl
@[simp] theorem State.setXl_freeSeq (s : State) (p : Payload) : (s.setXl p).freeSeq = s.freeSeq := rfl

/-! ### `State.setYl` -/

@[simp] theorem State.setYl_cfg (s : State) (p : Payload) : (s.setYl p).cfg = s.cfg := rfl
@[simp] theorem State.setYl_rangeSel (s : State) (p : Payload) : (s.setYl p).rangeSel = s.rangeSel := rfl
@[simp] theorem State.setYl_odrSel (s : State) (p : Payload) : (s.setYl p).odrSel = s.odrSel := rfl
@[simp] theorem State.setYl_hpfSel (s : State) (p : Payload) : (s.setYl p).hpfSel = s.hpfSel := rfl
@[simp] theorem State.setYl_scale (s : State) (p : Payload) : (s.setYl p).scale = s.scale := rfl
@[simp] theorem State.setYl_acc (s : State) (p : Payload) : (s.setYl p).acc = s.acc := rfl
@[simp] theorem State.setYl_slot (s : State) (p : Payload) : (s.setYl p).slot = s.slot := rfl
@[simp] theorem State.setYl_xl (s : State) (p : Payload) : (s.setYl p).xl = s.xl := rfl
@[simp] theorem State.setYl_yl (s : State) (p : Payload) : (s.setYl p).yl = p := rfl
@[simp] theorem State.setYl_elapsed (s : State) (p : Payload) : (s.setYl p).elapsed = s.elapsed := rfl
@[simp] theorem State.setYl_tmp (s : State) (p : Payload) : (s.setYl p).tmp = s.tmp := rfl
@[simp] theorem State.setYl_op (s : State) (p : Payload) : (s.setYl p).op = s.op := rfl
@[simp] theorem State.setYl_fsm (s : State) (p : Payload) : (s.setYl p).fsm = s.fsm := rfl
@[simp] theorem State.setYl_err (s : State) (p : Payload) : (s.setYl p).err = s.err := rfl
@[simp] theorem State.setYl_info (s : State) (p : Payload) : (s.setYl p).info = s.info := rfl
@[simp] theorem State.setYl_warn (s : State) (p : Payload) : (s.setYl p).warn = s.warn := rfl
@[simp] theorem State.setYl_res (s : State) (p : Payload) : (s.setYl p).res = s.res := rfl
@[simp] theorem State.setYl_env (s : State) (p : Payload) : (s.setYl p).env = s.env := rfl
@[simp] theorem State.setYl_port (s : State) (p : Payload) : (s.setYl p).port = s.port := rfl
@[simp] theorem State.setYl_resetIn (s : State) (p : Payload) : (s.setYl p).resetIn = s.resetIn := rfl
@[simp] theorem State.setYl_fuel (s : State) (p : Payload) : (s.setYl p).fuel = s.fuel := rfl
@[simp] theorem State.setYl_freeSeq (s : State) (p : Payload) : (s.setYl p).freeSeq = s.freeSeq := rfl

/-! ### `State.setAcc` -/

@[simp] theorem State.setAcc_cfg (s : State) (l : List FifoTriplet) : (s.setAcc l).cfg = s.cfg := rfl
@[simp] theorem State.setAcc_rangeSel (s : State) (l : List FifoTriplet) : (s.setAcc l).rangeSel = s.rangeSel := rfl
@[simp] theorem State.setAcc_odrSel (s : State) (l : List FifoTriplet) : (s.setAcc l).odrSel = s.odrSel := rfl
@[simp] theorem State.setAcc_hpfSel (s : State) (l : List FifoTriplet) : (s.setAcc l).hpfSel = s.hpfSel := rfl
@[simp] theorem State.setAcc_scale (s : State) (l : List FifoTriplet) : (s.setAcc l).scale = s.scale := rfl
@[simp] theorem State.setAcc_acc (s : State) (l : List FifoTriplet) : (s.setAcc l).acc = l := rfl
@[simp] theorem State.setAcc_slot (s : State) (l : List FifoTriplet) : (s.setAcc l).slot = s.slot := rfl
@[simp] theorem State.setAcc_xl (s : State) (l : List FifoTriplet) : (s.setAcc l).xl = s.xl := rfl
@[simp] theorem State.setAcc_yl (s : State) (l : List FifoTriplet) : (s.setAcc l).yl = s.yl := rfl
@[simp] theorem State.setAcc_elapsed (s : State) (l : List FifoTriplet) : (s.setAcc l).elapsed = s.elapsed := rfl
@[simp] theorem State.setAcc_tmp (s : State) (l : List FifoTriplet) : (s.setAcc l).tmp = s.tmp := rfl
@[simp] theorem State.setAcc_op (s : State) (l : List FifoTriplet) : (s.setAcc l).op = s.op := rfl
@[simp] theorem State.setAcc_fsm (s : State) (l : List FifoTriplet) : (s.setAcc l).fsm = s.fsm := rfl
@[simp] theorem State.setAcc_err (s : State) (l : List FifoTriplet) : (s.setAcc l).err = s.err := rfl
@[simp] theorem State.setAcc_info (s : State) (l : List FifoTriplet) : (s.setAcc l).info = s.info := rfl
@[simp] theorem State.setAcc_warn (s : State) (l : List FifoTriplet) : (s.setAcc l).warn = s.warn := rfl
@[simp] theorem State.setAcc_res (s : State) (l : List FifoTriplet) : (s.setAcc l).res = s.res := rfl
@[simp] theorem State.setAcc_env (s : State) (l : List FifoTriplet) : (s.setAcc l).env = s.env := rfl
@[simp] theorem State.setAcc_port (s : State) (l : List FifoTriplet) : (s.setAcc l).port = s.port := rfl
@[simp] theorem State.setAcc_resetIn (s : State) (l : List FifoTriplet) : (s.setAcc l).resetIn = s.resetIn := rfl
@[simp] theorem State.setAcc_fuel (s : State) (l : List FifoTriplet) : (s.setAcc l).fuel = s.fuel := rfl
@[simp] theorem State.setAcc_freeSeq (s : State) (l : List FifoTriplet) : (s.setAcc l).freeSeq = s.freeSeq := rfl

/-! ### `State.begin` -/

@[simp] theorem State.begin_cfg (s : State) : s.begin.cfg = s.cfg := rfl
@[simp] theorem State.begin_rangeSel (s : State) : s.begin.rangeSel = s.rangeSel := rfl
@[simp] theorem State.begin_odrSel (s : State) : s.begin.odrSel = s.odrSel := rfl
@[simp] theorem State.begin_hpfSel (s : State) : s.begin.hpfSel = s.hpfSel := rfl
@[simp] theorem State.begin_scale (s : State) : s.begin.scale = s.scale := rfl
@[simp] theorem State.begin_acc (s : State) : s.begin.acc = s.acc := rfl
@[simp] theorem State.begin_slot (s : State) : s.begin.slot = s.slot := rfl
@[simp] theorem State.begin_xl (s : State) : s.begin.xl = s.xl := rfl
@[simp] theorem State.begin_yl (s : State) : s.begin.yl = s.yl := rfl
@[simp] theorem State.begin_elapsed (s : State) : s.begin.elapsed = s.elapsed := rfl
@[simp] theorem State.begin_tmp (s : State) : s.begin.tmp = s.tmp := rfl
@[simp] theorem State.begin_op (s : State) : s.begin.op = s.op := rfl
@[simp] theorem State.begin_fsm (s : State) : s.begin.fsm = s.fsm := rfl
@[simp] theorem State.begin_err (s : State) : s.begin.err = s.err := rfl
@[simp] theorem State.begin_info (s : State) : s.begin.info = s.info := rfl
@[simp] theorem State.begin_warn (s : State) : s.begin.warn = false := rfl
@[simp] theorem State.begin_res (s : State) : s.begin.res = s.res := rfl
@[simp] theorem State.begin_env (s : State) : s.begin.env = s.env := rfl
@[simp] theorem State.begin_port (s : State) : s.begin.port = s.port := rfl
@[simp] theorem State.begin_resetIn (s : State) : s.begin.resetIn = s.resetIn := rfl
@[simp] theorem State.begin_fuel (s : State) : s.begin.fuel = s.fuel := rfl
@[simp] theorem State.begin_freeSeq (s : State) : s.begin.freeSeq = s.freeSeq := rfl

/-! ### `State.setWarn` -/

@[simp] theorem State.setWarn_cfg (s : State) : s.setWarn.cfg = s.cfg := rfl
@[simp] theorem State.setWarn_rangeSel (s : State) : s.setWarn.rangeSel = s.rangeSel := rfl
@[simp] theorem State.setWarn_odrSel (s : State) : s.setWarn.odrSel = s.odrSel := rfl
@[simp] theorem State.setWarn_hpfSel (s : State) : s.setWarn.hpfSel = s.hpfSel := rfl
@[simp] theorem State.setWarn_scale (s : State) : s.setWarn.scale = s.scale := rfl
@[simp] theorem State.setWarn_acc (s : State) : s.setWarn.acc = s.acc := rfl
@[simp] theorem State.setWarn_slot (s : State) : s.setWarn.slot = s.slot := rfl
@[simp] theorem State.setWarn_xl (s : State) : s.setWarn.xl = s.xl := rfl
@[simp] theorem State.setWarn_yl (s : State) : s.setWarn.yl = s.yl := rfl
@[simp] theorem State.setWarn_elapsed (s : State) : s.setWarn.elapsed = s.elapsed := rfl
@[simp] theorem State.setWarn_tmp (s : State) : s.setWarn.tmp = s.tmp := rfl
@[simp] theorem State.setWarn_op (s : State) : s.setWarn.op = s.op := rfl
@[simp] theorem State.setWarn_fsm (s : State) : s.setWarn.fsm = s.fsm := rfl
@[simp] theorem State.setWarn_err (s : State) : s.setWarn.err = s.err := rfl
@[simp] theorem State.setWarn_info (s : State) : s.setWarn.info = s.info := rfl
@[simp] theorem State.setWarn_warn (s : State) : s.setWarn.warn = true := rfl
@[simp] theorem State.setWarn_res (s : State) : s.setWarn.res = s.res := rfl
@[simp] theorem State.setWarn_env (s : State) : s.setWarn.env = s.env := rfl
@[simp] theorem State.setWarn_port (s : State) : s.setWarn.port = s.port := rfl
@[simp] theorem State.setWarn_resetIn (s : State) : s.setWarn.resetIn = s.resetIn := rfl
@[simp] theorem State.setWarn_fuel (s : State) : s.setWarn.fuel = s.fuel := rfl
@[simp] theorem State.setWarn_freeSeq (s : State) : s.setWarn.freeSeq = s.freeSeq := rfl

/-! ### `State.withPort` -/

@[simp] theorem State.withPort_cfg (s : State) (p : List Request) : (s.withPort p).cfg = s.cfg := rfl
@[simp] theorem State.withPort_rangeSel (s : State) (p : List Request) : (s.withPort p).rangeSel = s.rangeSel := rfl
@[simp] theorem State.withPort_odrSel (s : State) (p : List Request) : (s.withPort p).odrSel = s.odrSel := rfl
@[simp] theorem State.withPort_hpfSel (s : State) (p : List Request) : (s.withPort p).hpfSel = s.hpfSel := rfl
@[simp] theorem State.withPort_scale (s : State) (p : List Request) : (s.withPort p).scale = s.scale := rfl
@[simp] theorem State.withPort_acc (s : State) (p : List Request) : (s.withPort p).acc = s.acc := rfl
@[simp] theorem State.withPort_slot (s : State) (p : List Request) : (s.withPort p).slot = s.slot := rfl
@[simp] theorem State.withPort_xl (s : State) (p : List Request) : (s.withPort p).xl = s.xl := rfl
@[simp] theorem State.withPort_yl (s : State) (p : List Request) : (s.withPort p).yl = s.yl := rfl
@[simp] theorem State.withPort_elapsed (s : State) (p : List Request) : (s.withPort p).elapsed = s.elapsed := rfl
@[simp] theorem State.withPort_tmp (s : State) (p : List Request) : (s.withPort p).tmp = s.tmp := rfl
@[simp] theorem State.withPort_op (s : State) (p : List Request) : (s.withPort p).op = s.op := rfl
@[simp] theorem State.withPort_fsm (s : State) (p : List Request) : (s.withPort p).fsm = s.fsm := rfl
@[simp] theorem State.withPort_err (s : State) (p : List Request) : (s.withPort p).err = s.err := rfl
@[simp] theorem State.withPort_info (s : State) (p : List Request) : (s.withPort p).info = s.info := rfl
@[simp] theorem State.withPort_warn (s : State) (p : List Request) : (s.withPort p).warn = s.warn := rfl
@[simp] theorem State.withPort_res (s : State) (p : List Request) : (s.withPort p).res = s.res := rfl
@[simp] theorem State.withPort_env (s : State) (p : List Request) : (s.withPort p).env = s.env := rfl
@[simp] theorem State.withPort_port (s : State) (p : List Request) : (s.withPort p).port = p := rfl
@[simp] theorem State.withPort_resetIn (s : State) (p : List Request) : (s.withPort p).resetIn = s.resetIn := rfl
@[simp] theorem State.withPort_fuel (s : State) (p : List Request) : (s.withPort p).fuel = s.fuel := rfl
@[simp] theorem State.withPort_freeSeq (s : State) (p : List Request) : (s.withPort p).freeSeq = s.freeSeq := rfl

/-! ### `State.deliver` -/

@[simp] theorem State.deliver_cfg (s : State) (v : Result) : (s.deliver v).cfg = s.cfg := rfl
@[simp] theorem State.deliver_rangeSel (s : State) (v : Result) : (s.deliver v).rangeSel = s.rangeSel := rfl
@[simp] theorem State.deliver_odrSel (s : State) (v : Result) : (s.deliver v).odrSel = s.odrSel := rfl
@[simp] theorem State.deliver_hpfSel (s : State) (v : Result) : (s.deliver v).hpfSel = s.hpfSel := rfl
@[simp] theorem State.deliver_scale (s : State) (v : Result) : (s.deliver v).scale = s.scale := rfl
@[simp] theorem State.deliver_acc (s : State) (v : Result) : (s.deliver v).acc = s.acc := rfl
@[simp] theorem State.deliver_slot (s : State) (v : Result) : (s.deliver v).slot = s.slot := rfl
@[simp] theorem State.deliver_xl (s : State) (v : Result) : (s.deliver v).xl = s.xl := rfl
@[simp] theorem State.deliver_yl (s : State) (v : Result) : (s.deliver v).yl = s.yl := rfl
@[simp] theorem State.deliver_elapsed (s : State) (v : Result) : (s.deliver v).elapsed = s.elapsed := rfl
@[simp] theorem State.deliver_tmp (s : State) (v : Result) : (s.deliver v).tmp = s.tmp := rfl
@[simp] theorem State.deliver_op (s : State) (v : Result) : (s.deliver v).op = none := rfl
@[simp] theorem State.deliver_fsm (s : State) (v : Result) : (s.deliver v).fsm = .idle := rfl
@[simp] theorem State.deliver_err (s : State) (v : Result) : (s.deliver v).err = .ok := rfl
@[simp] theorem State.deliver_info (s : State) (v : Result) : (s.deliver v).info = .none := rfl
@[simp] theorem State.deliver_warn (s : State) (v : Result) : (s.deliver v).warn = s.warn := rfl
@[simp] theorem State.deliver_res (s : State) (v : Result) : (s.deliver v).res = v := rfl
@[simp] theorem State.deliver_env (s : State) (v : Result) : (s.deliver v).env = s.env := rfl
@[simp] theorem State.deliver_port (s : State) (v : Result) : (s.deliver v).port = s.port := rfl
@[simp] theorem State.deliver_resetIn (s : State) (v : Result) : (s.deliver v).resetIn = s.resetIn := rfl
@[simp] theorem State.deliver_fuel (s : State) (v : Result) : (s.deliver v).fuel = s.fuel := rfl
@[simp] theorem State.deliver_freeSeq (s : State) (v : Result) : (s.deliver v).freeSeq = s.freeSeq + 1 := rfl

/-! ### `State.raise` -/

@[simp] theorem State.raise_cfg (s : State) (c : ErrCode) (i : ErrInfo) : (s.raise c i).cfg = s.cfg := rfl
@[simp] theorem State.raise_rangeSel (s : State) (c : ErrCode) (i : ErrInfo) : (s.raise c i).rangeSel = s.rangeSel := rfl
@[simp] theorem State.raise_odrSel (s : State) (c : ErrCode) (i : ErrInfo) : (s.raise c i).odrSel = s.odrSel := rfl
@[simp] theorem State.raise_hpfSel (s : State) (c : ErrCode) (i : ErrInfo) : (s.raise c i).hpfSel = s.hpfSel := rfl
@[simp] theorem State.raise_scale (s : State) (c : ErrCode) (i : ErrInfo) : (s.raise c i).scale = s.scale := rfl
@[simp] theorem State.raise_acc (s : State) (c : ErrCode) (i : ErrInfo) : (s.raise c i).acc = s.acc := rfl
@[simp] theorem State.raise_slot (s : State) (c : ErrCode) (i : ErrInfo) : (s.raise c i).slot = if s.fsm = .draining then .x else s.slot := rfl
@[simp] theorem State.raise_xl (s : State) (c : ErrCode) (i : ErrInfo) : (s.raise c i).xl = s.xl := rfl
@[simp] theorem State.raise_yl (s : State) (c : ErrCode) (i : ErrInfo) : (s.raise c i).yl = s.yl := rfl
@[simp] theorem State.raise_elapsed (s : State) (c : ErrCode) (i : ErrInfo) : (s.raise c i).elapsed = s.elapsed := rfl
@[simp] theorem State.raise_tmp (s : State) (c : ErrCode) (i : ErrInfo) : (s.raise c i).tmp = s.tmp := rfl
@[simp] theorem State.raise_op (s : State) (c : ErrCode) (i : ErrInfo) : (s.raise c i).op = none := rfl
@[simp] theorem State.raise_fsm (s : State) (c : ErrCode) (i : ErrInfo) : (s.raise c i).fsm = .idle := rfl
@[simp] theorem State.raise_err (s : State) (c : ErrCode) (i : ErrInfo) : (s.raise c i).err = c := rfl
@[simp] theorem State.raise_info (s : State) (c : ErrCode) (i : ErrInfo) : (s.raise c i).info = i := rfl
@[simp] theorem State.raise_warn (s : State) (c : ErrCode) (i : ErrInfo) : (s.raise c i).warn = s.warn := rfl
@[simp] theorem State.raise_res (s : State) (c : ErrCode) (i : ErrInfo) : (s.raise c i).res = Config.freeResult s.freeSeq := rfl
@[simp] theorem State.raise_env (s : State) (c : ErrCode) (i : ErrInfo) : (s.raise c i).env = s.env := rfl
@[simp] theorem State.raise_port (s : State) (c : ErrCode) (i : ErrInfo) : (s.raise c i).port = s.port := rfl
@[simp] theorem State.raise_resetIn (s : State) (c : ErrCode) (i : ErrInfo) : (s.raise c i).resetIn = s.resetIn := rfl
@[simp] theorem State.raise_fuel (s : State) (c : ErrCode) (i : ErrInfo) : (s.raise c i).fuel = s.fuel := rfl
@[simp] theorem State.raise_freeSeq (s : State) (c : ErrCode) (i : ErrInfo) : (s.raise c i).freeSeq = s.freeSeq + 1 := rfl

/-! ### `State.presented` -/

@[simp] theorem State.presented_cfg (s : State) (q : Request) : (s.presented q).cfg = s.cfg := rfl
@[simp] theorem State.presented_rangeSel (s : State) (q : Request) : (s.presented q).rangeSel = s.rangeSel := rfl
@[simp] theorem State.presented_odrSel (s : State) (q : Request) : (s.presented q).odrSel = s.odrSel := rfl
@[simp] theorem State.presented_hpfSel (s : State) (q : Request) : (s.presented q).hpfSel = s.hpfSel := rfl
@[simp] theorem State.presented_scale (s : State) (q : Request) : (s.presented q).scale = s.scale := rfl
@[simp] theorem State.presented_acc (s : State) (q : Request) : (s.presented q).acc = s.acc := rfl
@[simp] theorem State.presented_slot (s : State) (q : Request) : (s.presented q).slot = s.slot := rfl
@[simp] theorem State.presented_xl (s : State) (q : Request) : (s.presented q).xl = s.xl := rfl
@[simp] theorem State.presented_yl (s : State) (q : Request) : (s.presented q).yl = s.yl := rfl
@[simp] theorem State.presented_elapsed (s : State) (q : Request) : (s.presented q).elapsed = s.elapsed := rfl
@[simp] theorem State.presented_tmp (s : State) (q : Request) : (s.presented q).tmp = s.tmp := rfl
@[simp] theorem State.presented_op (s : State) (q : Request) : (s.presented q).op = none := rfl
@[simp] theorem State.presented_fsm (s : State) (q : Request) : (s.presented q).fsm = .idle := rfl
@[simp] theorem State.presented_err (s : State) (q : Request) : (s.presented q).err = s.err := rfl
@[simp] theorem State.presented_info (s : State) (q : Request) : (s.presented q).info = s.info := rfl
@[simp] theorem State.presented_warn (s : State) (q : Request) : (s.presented q).warn = s.warn := rfl
@[simp] theorem State.presented_res (s : State) (q : Request) : (s.presented q).res = s.res := rfl
@[simp] theorem State.presented_env (s : State) (q : Request) : (s.presented q).env = s.env := rfl
@[simp] theorem State.presented_port (s : State) (q : Request) : (s.presented q).port = [q] := rfl
@[simp] theorem State.presented_resetIn (s : State) (q : Request) : (s.presented q).resetIn = false := rfl
@[simp] theorem State.presented_fuel (s : State) (q : Request) : (s.presented q).fuel = s.fuel := rfl
@[simp] theorem State.presented_freeSeq (s : State) (q : Request) : (s.presented q).freeSeq = s.freeSeq := rfl

/-! ### `State.applyReset` -/

@[simp] theorem State.applyReset_cfg (s : State) : s.applyReset.cfg = s.cfg := rfl
@[simp] theorem State.applyReset_rangeSel (s : State) : s.applyReset.rangeSel = none := rfl
@[simp] theorem State.applyReset_odrSel (s : State) : s.applyReset.odrSel = none := rfl
@[simp] theorem State.applyReset_hpfSel (s : State) : s.applyReset.hpfSel = none := rfl
@[simp] theorem State.applyReset_scale (s : State) : s.applyReset.scale = none := rfl
@[simp] theorem State.applyReset_acc (s : State) : s.applyReset.acc = [] := rfl
@[simp] theorem State.applyReset_slot (s : State) : s.applyReset.slot = .x := rfl
@[simp] theorem State.applyReset_xl (s : State) : s.applyReset.xl = Payload.zero := rfl
@[simp] theorem State.applyReset_yl (s : State) : s.applyReset.yl = Payload.zero := rfl
@[simp] theorem State.applyReset_elapsed (s : State) : s.applyReset.elapsed = 0 := rfl
@[simp] theorem State.applyReset_tmp (s : State) : s.applyReset.tmp = 0 := rfl
@[simp] theorem State.applyReset_op (s : State) : s.applyReset.op = none := rfl
@[simp] theorem State.applyReset_fsm (s : State) : s.applyReset.fsm = .idle := rfl
@[simp] theorem State.applyReset_err (s : State) : s.applyReset.err = .ok := rfl
@[simp] theorem State.applyReset_info (s : State) : s.applyReset.info = .none := rfl
@[simp] theorem State.applyReset_warn (s : State) : s.applyReset.warn = false := rfl
@[simp] theorem State.applyReset_res (s : State) : s.applyReset.res = .none := rfl
@[simp] theorem State.applyReset_env (s : State) : s.applyReset.env = s.env := rfl
@[simp] theorem State.applyReset_port (s : State) : s.applyReset.port = s.port := rfl
@[simp] theorem State.applyReset_resetIn (s : State) : s.applyReset.resetIn = false := rfl
@[simp] theorem State.applyReset_fuel (s : State) : s.applyReset.fuel = s.fuel := rfl
@[simp] theorem State.applyReset_freeSeq (s : State) : s.applyReset.freeSeq = s.freeSeq := rfl

end Sys2Proof.Machine
end

