-- ==== Sys2Proof/Laws/Sequencer.lean ====
section
/-! SUPPORT. What the bus accesses of an operation, one position, and a run of positions can do, said once. -/

namespace Sys2Proof.Machine

/-- A register read inside an operation goes on with the payload or ends it. -/
theorem State.busRead_cases {P : State → Prop} {s : State} {a : Addr} {n : Nat} {k : List Byte → State → State}
    (ok : ∀ e p, s.env.regRead s.cfg.regmap a n = (e, .ok p) → P (k p (s.withEnv e)))
    (err : ∀ e r, s.env.regRead s.cfg.regmap a n = (e, .error r) → P ((s.withEnv e).raise r.1 r.2)) :
    P (s.busRead a n k) := by
  unfold State.busRead
  split
  · exact ok _ _ (by assumption)
  · exact err _ _ (by assumption)

/-- A register write inside an operation goes on or ends it. -/
theorem State.busWrite_cases {P : State → Prop} {s : State} {a : Addr} {v : Byte} {k : State → State}
    (ok : ∀ e, s.env.regWrite s.cfg.regmap a v = (e, .ok ()) → P (k (s.withEnv e)))
    (err : ∀ e r, s.env.regWrite s.cfg.regmap a v = (e, .error r) → P ((s.withEnv e).raise r.1 r.2)) :
    P (s.busWrite a v k) := by
  unfold State.busWrite
  split
  · exact ok _ (by assumption)
  · exact err _ _ (by assumption)

/-- A register read that succeeds. -/
theorem State.busRead_ok {s : State} {a : Addr} {n : Nat} {k : List Byte → State → State} {e : Env} {p : List Byte}
    (h : s.env.regRead s.cfg.regmap a n = (e, .ok p)) : s.busRead a n k = k p (s.withEnv e) := by
  simp [State.busRead, h]

/-- A register read that fails. -/
theorem State.busRead_error {s : State} {a : Addr} {n : Nat} {k : List Byte → State → State} {e : Env} {r : Raise}
    (h : s.env.regRead s.cfg.regmap a n = (e, .error r)) : s.busRead a n k = (s.withEnv e).raise r.1 r.2 := by
  simp [State.busRead, h]

/-- A register write that succeeds. -/
theorem State.busWrite_ok {s : State} {a : Addr} {v : Byte} {k : State → State} {e : Env}
    (h : s.env.regWrite s.cfg.regmap a v = (e, .ok ())) : s.busWrite a v k = k (s.withEnv e) := by
  simp [State.busWrite, h]

/-- A register write that fails. -/
theorem State.busWrite_error {s : State} {a : Addr} {v : Byte} {k : State → State} {e : Env} {r : Raise}
    (h : s.env.regWrite s.cfg.regmap a v = (e, .error r)) : s.busWrite a v k = (s.withEnv e).raise r.1 r.2 := by
  simp [State.busWrite, h]

/-- With no operation in progress the sequencer does nothing. -/
theorem State.tick_none {s : State} (h : s.op = none) : s.tick = s := by simp [State.tick, h]

/-- At the end of its pseudocode an operation returns. -/
theorem State.tick_nil {s : State} {r : Running} (h : s.op = some r) (ht : r.todo = []) : s.tick = s.complete r := by
  simp [State.tick, h, ht]

/-- A position is passed. -/
theorem State.tick_cons {s : State} {r : Running} {m : Micro} {rest : List Micro} (h : s.op = some r)
    (ht : r.todo = m :: rest) : s.tick = m.run { r with todo := rest } s := by
  simp [State.tick, h, ht]

theorem State.run_zero (s : State) : State.run 0 s = s := rfl

theorem State.run_succ (k : Nat) (s : State) : State.run (k + 1) s = State.run k s.tick := rfl

/-- A run past the end of an operation changes nothing. -/
theorem State.run_none (k : Nat) {s : State} (h : s.op = none) : State.run k s = s := by
  induction k with
  | zero => rfl
  | succ k ih => rw [State.run_succ, State.tick_none h, ih]

/-- A run cut in two. -/
theorem State.run_split (k j : Nat) (s : State) : State.run (k + j) s = State.run j (State.run k s) := by
  induction k generalizing s with
  | zero => simp [State.run_zero]
  | succ k ih => rw [Nat.succ_add, State.run_succ, ih, State.run_succ]

/-- What holds before a run and is kept by every position holds after it. -/
theorem State.run_keeps {P : State → Prop} (hP : ∀ s, P s → P s.tick) (k : Nat) {s : State} (h : P s) :
    P (State.run k s) := by
  induction k generalizing s with
  | zero => exact h
  | succ k ih => rw [State.run_succ]; exact ih (hP s h)

/-- `t` has the configuration, the port, the reset input and the fuel of `s`. -/
def State.SameInputs (s t : State) : Prop :=
  t.cfg = s.cfg ∧ t.port = s.port ∧ t.resetIn = s.resetIn ∧ t.fuel = s.fuel

/-- No position writes the configuration, the port, the reset input, the fuel. -/
theorem Micro.run_inputs (m : Micro) (r : Running) (s : State) : s.SameInputs (m.run r s) := by
  cases m <;> simp only [Micro.run]
  case waitBegin => split <;> simp [State.SameInputs]
  case poll =>
    split
    · simp [State.SameInputs]
    · simp [State.SameInputs]
    · split <;> simp [State.SameInputs]
  case fifoX =>
    refine State.busRead_cases (fun e p _ => ?_) (fun e x _ => by simp [State.SameInputs])
    split <;> simp [State.SameInputs]
  case acqTest => split <;> simp [State.SameInputs]
  all_goals first
    | exact State.busRead_cases (fun e p _ => by simp [State.SameInputs])
        (fun e x _ => by simp [State.SameInputs])
    | exact State.busWrite_cases (fun e _ => by simp [State.SameInputs])
        (fun e x _ => by simp [State.SameInputs])
    | simp [State.SameInputs]

/-- No position writes the configuration, the port, the reset input, the fuel; nor does a return. -/
theorem State.tick_inputs (s : State) : s.SameInputs s.tick := by
  simp only [State.tick]
  split
  · simp [State.SameInputs]
  · split
    · simp [State.SameInputs, State.complete]
    · exact Micro.run_inputs ..

theorem State.SameInputs.trans {s t u : State} (h : s.SameInputs t) (h' : t.SameInputs u) : s.SameInputs u :=
  ⟨h'.1.trans h.1, h'.2.1.trans h.2.1, h'.2.2.1.trans h.2.2.1, h'.2.2.2.trans h.2.2.2⟩

/-- A run writes neither the configuration nor the port nor the reset input nor the fuel. -/
theorem State.run_inputs (k : Nat) (s : State) : s.SameInputs (State.run k s) :=
  State.run_keeps (P := s.SameInputs) (fun t h => h.trans (State.tick_inputs t)) k ⟨rfl, rfl, rfl, rfl⟩

/-- An operation is in progress, or it has just ended with an error. -/
def State.GoesOnOrFailed (t : State) : Prop := (∃ r, t.op = some r) ∨ (t.op = none ∧ t.fsm = .idle ∧ t.err ≠ .ok)

/-- The error of a register read is an error. -/
theorem Env.regRead_error {m : RegMap} {e e' : Env} {a : Addr} {n : Nat} {x : Raise}
    (h : e.regRead m a n = (e', .error x)) :
    (n = 0 ∧ e' = e ∧ x = (.invalidArgument, .length)) ∨ (n ≠ 0 ∧ x.1 = .transportError) := by
  by_cases hn : n = 0
  · simp only [Env.regRead, encodeRead, hn, if_true, Prod.mk.injEq, Except.error.injEq] at h
    exact .inl ⟨hn, h.1.symm, h.2.symm⟩
  · refine .inr ⟨hn, ?_⟩
    simp only [Env.regRead, encodeRead, hn, if_false] at h
    split at h
    · simp only [Prod.mk.injEq, Except.error.injEq] at h
      rw [← h.2]
    · rename_i resp _
      split at h
      · cases resp with
        | nil => simp_all
        | cons b t => simp [decodeReadResponse] at h
      · simp only [Prod.mk.injEq, Except.error.injEq] at h
        rw [← h.2]

/-- The error of a register write is `TransportError`. -/
theorem Env.regWrite_error {m : RegMap} {e e' : Env} {a : Addr} {v : Byte} {x : Raise}
    (h : e.regWrite m a v = (e', .error x)) : x.1 = .transportError := by
  simp only [Env.regWrite] at h
  split at h
  · simp only [Prod.mk.injEq, Except.error.injEq] at h
    rw [← h.2]
  · split at h
    · simp at h
    · simp only [Prod.mk.injEq, Except.error.injEq] at h
      rw [← h.2]

theorem State.goOn_goesOn (s : State) (r : Running) : (s.goOn r).GoesOnOrFailed := .inl ⟨r, rfl⟩

theorem State.raise_failed {s : State} {c : ErrCode} {i : ErrInfo} (h : c ≠ .ok) : (s.raise c i).GoesOnOrFailed :=
  .inr ⟨rfl, rfl, h⟩

theorem State.readFailed {s : State} {e e' : Env} {a : Addr} {n : Nat} {x : Raise}
    (h : e.regRead s.cfg.regmap a n = (e', .error x)) (t : State) : (t.raise x.1 x.2).GoesOnOrFailed := by
  apply State.raise_failed
  rcases Env.regRead_error h with ⟨-, -, rfl⟩ | ⟨-, h⟩
  · simp
  · simp [h]

/-- A position either goes on with the operation or ends it with an error. -/
theorem Micro.run_goesOn (m : Micro) (r : Running) (s : State) : (m.run r s).GoesOnOrFailed := by
  cases m <;> simp only [Micro.run]
  case waitBegin => split <;> exact State.goOn_goesOn ..
  case poll =>
    split
    · exact State.raise_failed (by simp)
    · exact State.goOn_goesOn ..
    · split
      · exact State.raise_failed (by simp)
      · exact State.goOn_goesOn ..
  case fifoX =>
    refine State.busRead_cases (fun e p _ => ?_) (fun e x h => State.readFailed h _)
    split <;> exact State.goOn_goesOn ..
  case acqTest => split <;> exact State.goOn_goesOn ..
  all_goals first
    | exact State.busRead_cases (fun e p _ => State.goOn_goesOn ..) (fun e x h => State.readFailed h _)
    | exact State.busWrite_cases (fun e _ => State.goOn_goesOn ..)
        (fun e x h => State.raise_failed (by simp [Env.regWrite_error h]))
    | exact State.goOn_goesOn ..

end Sys2Proof.Machine
end

