-- ==== Sys2Proof/Laws/Exec.lean ====
section
/-! SUPPORT. How an operation is taken, launched and run to its end: what the shared operations behind the meanings can do,
said once. -/

namespace Sys2Proof.Machine

/-- An idle core takes the operation, with `WARN` cleared (R237, R246). -/
theorem State.accept_idle {s : State} (h : s.fsm = .idle) (k : State → State) : s.accept k = .next (k s.begin) := by
  simp [State.accept, State.busy, h]

/-- A busy core takes none (R246). -/
theorem State.accept_busy {s : State} (h : s.fsm ≠ .idle) (k : State → State) : s.accept k = .next s := by
  simp [State.accept, State.busy, h]

/-- Whatever the core's state, presenting an operation ends in a next state. -/
theorem State.accept_next (s : State) (k : State → State) : ∃ t, s.accept k = .next t := by
  by_cases h : s.fsm = .idle
  · exact ⟨_, State.accept_idle h k⟩
  · exact ⟨_, State.accept_busy h k⟩

/-- A register read of no byte raises before any call (R66, R130). -/
theorem State.registerRead_zero (s : State) (i : Instr) (a : Addr) :
    s.registerRead i a 0 = s.raise .invalidArgument .length := rfl

/-- A register read of at least one byte is launched as one position. -/
theorem State.registerRead_pos (s : State) (i : Instr) (a : Addr) {n : Nat} (h : n ≠ 0) :
    s.registerRead i a n = s.launch i .sequencing [.regRd a n] .bytes := if_neg h

/-- A run with fuel to spare past an operation that has ended. -/
theorem State.run_add_none {k j : Nat} {s t : State} (h : State.run k s = t) (ht : t.op = none) :
    State.run (k + j) s = t := by
  rw [State.run_split, h, State.run_none j ht]

/-- A run that has reached the end of an operation's pseudocode returns with one more unit of fuel. -/
theorem State.run_done {k : Nat} {s t : State} {r : Running} (h : State.run k s = t) (ho : t.op = some r)
    (ht : r.todo = []) : State.run (k + 1) s = t.complete r := by
  rw [State.run_split, h, State.run_succ, State.run_zero, State.tick_nil ho ht]

end Sys2Proof.Machine
end

