-- ==== Sys2Proof/Laws/Numerics.lean ====
section
/-! SUPPORT. What rounding to binary64 can do, said once: `roundRat` is the exact quotient rounded once to nearest even
(`RoundsTo`, `42_decoder.md` R175). -/

namespace Sys2Proof.Machine

/-- `roundEven` is the nearest natural number, even at a tie, compared with any integer. -/
theorem roundEven_nearest (n d : Nat) (hd : 0 < d) (t : Int) :
    |(roundEven n d : Int) * d - n| ≤ |t * d - n| ∧
    (t ≠ roundEven n d → |t * d - n| = |(roundEven n d : Int) * d - n| → roundEven n d % 2 = 0) := by
  have hn := Nat.div_add_mod n d
  have hr := Nat.mod_lt n hd
  set q := n / d
  set r := n % d
  have hn' : (n : Int) = d * q + r := by exact_mod_cast hn.symm
  have hd' : (0 : Int) < d := by exact_mod_cast hd
  have hr' : (r : Int) < d := by exact_mod_cast hr
  have hr0 : (0 : Int) ≤ r := Int.natCast_nonneg _
  have up : t ≤ q ∨ (q : Int) + 1 ≤ t := by omega
  have e0 : (q : Int) * d - n = -r := by rw [hn']; ring
  have e1 : ((q : Int) + 1) * d - n = d - r := by rw [hn']; ring
  have lo : t ≤ q → t * d - n ≤ -r ∧ (t ≠ q → t * d - n ≤ -r - d) := by
    intro h
    constructor
    · rw [hn']; nlinarith
    · intro h'; have : t ≤ q - 1 := by omega
      rw [hn']; nlinarith
  have hi : (q : Int) + 1 ≤ t → d - r ≤ t * d - n ∧ (t ≠ q + 1 → d - r + d ≤ t * d - n) := by
    intro h
    constructor
    · rw [hn']; nlinarith
    · intro h'; have : (q : Int) + 2 ≤ t := by omega
      rw [hn']; nlinarith
  have hre : roundEven n d = if d < 2 * r ∨ (2 * r = d ∧ q % 2 = 1) then q + 1 else q := rfl
  rw [hre]
  split
  · rename_i h
    push_cast
    rw [e1, abs_of_pos (by omega)]
    rcases up with u | u
    · obtain ⟨l1, l2⟩ := lo u
      rw [abs_of_nonpos (by omega)]
      refine ⟨by omega, fun h1 h2 => ?_⟩
      by_cases ht : t = q
      · omega
      · have := l2 ht; omega
    · obtain ⟨l1, l2⟩ := hi u
      rw [abs_of_pos (by omega)]
      refine ⟨by omega, fun h1 h2 => ?_⟩
      have := l2 h1; omega
  · rename_i h
    rw [e0, abs_neg, abs_of_nonneg hr0]
    rcases up with u | u
    · obtain ⟨l1, l2⟩ := lo u
      rw [abs_of_nonpos (by omega)]
      refine ⟨by omega, fun h1 h2 => ?_⟩
      have := l2 h1; omega
    · obtain ⟨l1, l2⟩ := hi u
      rw [abs_of_pos (by omega)]
      refine ⟨by omega, fun h1 h2 => ?_⟩
      by_cases ht : t = q + 1
      · omega
      · have := l2 ht; omega

/-- Scaling by the two halves of a power of two divides by it. -/
theorem pow2_ratio (e : Int) (a b : ℚ) : (a * (pow2 (-e) : ℚ)) / (b * (pow2 e : ℚ)) = a / b / (2 : ℚ) ^ e := by
  rcases le_or_gt 0 e with h | h
  · obtain ⟨k, rfl⟩ := Int.eq_ofNat_of_zero_le h
    have h1 : (-(k : Int)).toNat = 0 := by omega
    simp [pow2, h1, div_div]
  · obtain ⟨k, rfl⟩ : ∃ k : Nat, e = -(k : Int) := ⟨(-e).toNat, by omega⟩
    have h1 : (-(k : Int)).toNat = 0 := by omega
    simp [pow2, h1]
    ring

/-- The last place: never below that of the subnormal numbers, the quotient less than 53 bits of it, and 53 bits of it where
it is not clamped. -/
theorem lastPlace_spec {num den : Nat} (hn : num ≠ 0) (hd : 0 < den) :
    -1074 ≤ lastPlace num den ∧ (num : ℚ) / den < 2 ^ 53 * (2 : ℚ) ^ lastPlace num den ∧
    (-1074 < lastPlace num den → 2 ^ 52 * (2 : ℚ) ^ lastPlace num den ≤ (num : ℚ) / den) := by
  have hdq : (0 : ℚ) < den := by exact_mod_cast hd
  have a1 : ((2 : ℚ) ^ num.log2) ≤ num := by exact_mod_cast Nat.log2_self_le hn
  have a2 : (num : ℚ) < 2 ^ (num.log2 + 1) := by exact_mod_cast Nat.lt_log2_self
  have b1 : ((2 : ℚ) ^ den.log2) ≤ den := by exact_mod_cast Nat.log2_self_le hd.ne'
  have b2 : (den : ℚ) < 2 ^ (den.log2 + 1) := by exact_mod_cast Nat.lt_log2_self
  set a := num.log2
  set b := den.log2
  have key : ∀ e : Int, ((num * pow2 (-e) / (den * pow2 e) : Nat) ≥ 2 ^ 53 ↔ 2 ^ 53 * (2 : ℚ) ^ e ≤ (num : ℚ) / den) := by
    intro e
    have hp : 0 < den * pow2 e := Nat.mul_pos hd (Nat.pow_pos (by norm_num))
    rw [ge_iff_le, Nat.le_div_iff_mul_le hp]
    have hpq : (0 : ℚ) < (den : ℚ) * (pow2 e : ℚ) := by exact_mod_cast hp
    have := pow2_ratio e num den
    have he : (0 : ℚ) < (2 : ℚ) ^ e := by positivity
    rw [← le_div_iff₀ he, ← this, le_div_iff₀ hpq]
    norm_cast
  have hx1 : (2 : ℚ) ^ ((a : Int) - b - 1) < (num : ℚ) / den := by
    rw [lt_div_iff₀ hdq]
    calc (2 : ℚ) ^ ((a : Int) - b - 1) * den < (2 : ℚ) ^ ((a : Int) - b - 1) * 2 ^ (b + 1) := by
          apply mul_lt_mul_of_pos_left b2; positivity
      _ = 2 ^ a := by
          rw [← zpow_natCast, ← zpow_natCast, ← zpow_add₀ (by norm_num)]; congr 1; push_cast; ring
      _ ≤ num := a1
  have hx2 : (num : ℚ) / den < (2 : ℚ) ^ ((a : Int) - b + 1) := by
    rw [div_lt_iff₀ hdq]
    calc (num : ℚ) < 2 ^ (a + 1) := a2
      _ = (2 : ℚ) ^ ((a : Int) - b + 1) * 2 ^ b := by
          rw [← zpow_natCast, ← zpow_natCast, ← zpow_add₀ (by norm_num)]; congr 1; push_cast; ring
      _ ≤ (2 : ℚ) ^ ((a : Int) - b + 1) * den := by
          apply mul_le_mul_of_nonneg_left b1; positivity
  have z : ∀ (k : Nat) (e : Int), (2 : ℚ) ^ k * (2 : ℚ) ^ e = (2 : ℚ) ^ ((k : Int) + e) := by
    intro k e; rw [zpow_add₀ (by norm_num), zpow_natCast]
  have hl : lastPlace num den = max (if 2 ^ 53 ≤ num * pow2 (-((a : Int) - b - 53)) / (den * pow2 ((a : Int) - b - 53)) then
    (a : Int) - b - 53 + 1 else (a : Int) - b - 53) (-1074) := rfl
  have kk := key ((a : Int) - b - 53)
  rw [hl]
  -- the exponent before the clamp
  have main : ∃ e : Int, (if 2 ^ 53 ≤ num * pow2 (-((a : Int) - b - 53)) / (den * pow2 ((a : Int) - b - 53)) then
      (a : Int) - b - 53 + 1 else (a : Int) - b - 53) = e ∧ (2 : ℚ) ^ ((52 : Int) + e) ≤ (num : ℚ) / den ∧
      (num : ℚ) / den < (2 : ℚ) ^ ((53 : Int) + e) := by
    split
    · rename_i h
      refine ⟨_, rfl, ?_, ?_⟩
      · have := kk.1 h
        rw [z] at this
        refine le_trans (le_of_eq ?_) this; congr 1; push_cast; ring
      · refine lt_of_lt_of_eq hx2 ?_; congr 1; ring
    · rename_i h
      refine ⟨_, rfl, ?_, ?_⟩
      · refine le_trans (le_of_eq ?_) hx1.le; congr 1; ring
      · have := mt kk.2 h
        rw [z, not_le] at this
        refine lt_of_lt_of_eq this ?_; congr 1
  obtain ⟨e, he, h1, h2⟩ := main
  rw [he]
  refine ⟨le_max_right _ _, ?_, ?_⟩
  · rw [z]
    refine lt_of_lt_of_le h2 ?_
    apply zpow_le_zpow_right₀ (by norm_num)
    have := le_max_left e (-1074)
    push_cast; omega
  · intro h
    have : max e (-1074) = e := by omega
    rw [this, z]; exact_mod_cast h1

/-- The number that a sign bit and a magnitude spell. -/
theorem signBit_add_toNat {s : Bool} {n : Nat} (h : n < 2 ^ 63) : (BitVec.ofNat 64 (signBit s + n)).toNat = signBit s + n := by
  rw [BitVec.toNat_ofNat, Nat.mod_eq_of_lt]
  cases s <;> simp only [signBit] <;> norm_num <;> omega

/-- Their sign. -/
theorem signBit_add_sign {s : Bool} {n : Nat} (h : n < 2 ^ 63) : (BitVec.ofNat 64 (signBit s + n)).getLsbD 63 = s := by
  rw [BitVec.getLsbD, signBit_add_toNat h]
  cases s
  · simp only [signBit, Bool.false_eq_true, if_false, zero_add]
    exact Nat.testBit_lt_two_pow h
  · simp only [signBit, if_true]
    rw [Nat.testBit_two_pow_add_eq, Nat.testBit_lt_two_pow h]; rfl

/-- The bits of a magnitude below infinity, taken apart. -/
theorem unpack_signBit_add {s : Bool} {n : Nat} (h : n < 2047 * 2 ^ 52) :
    unpack (BitVec.ofNat 64 (signBit s + n)) =
      if n / 2 ^ 52 = 0 then .finite s (n % 2 ^ 52) (-1074)
      else .finite s (2 ^ 52 + n % 2 ^ 52) ((n / 2 ^ 52 : Nat) - 1075) := by
  have hlt : n < 2 ^ 63 := by omega
  have he : (signBit s + n) / 2 ^ 52 % 2 ^ 11 = n / 2 ^ 52 := by
    cases s <;> simp only [signBit, if_true, if_false, Bool.false_eq_true] <;> omega
  have hf : (signBit s + n) % 2 ^ 52 = n % 2 ^ 52 := by
    cases s <;> simp only [signBit, if_true, if_false, Bool.false_eq_true] <;> omega
  have hne : ¬ n / 2 ^ 52 = 2047 := by omega
  simp only [unpack, signBit_add_sign (s := s) hlt, signBit_add_toNat (s := s) hlt, he, hf, if_neg hne]

/-- The value of a finite number taken apart. -/
theorem f64Value_of_unpack {c : F64} {s : Bool} {m : Nat} {e : Int} (h : unpack c = .finite s m e) :
    f64Value c = some ((if s then -1 else 1) * (m : ℚ) * (2 : ℚ) ^ e) := by
  simp only [f64Value, h]

/-- The significand `m` placed at the last place `k - 1074`: its value, whether or not it carries into the exponent. -/
theorem f64Value_place {s : Bool} {k m : Nat} (hm : m ≤ 2 ^ 53) (hk : 0 < k → 2 ^ 52 ≤ m)
    (hb : k * 2 ^ 52 + m < 2047 * 2 ^ 52) :
    f64Value (BitVec.ofNat 64 (signBit s + (k * 2 ^ 52 + m))) =
      some ((if s then -1 else 1) * (m : ℚ) * (2 : ℚ) ^ ((k : Int) - 1074)) := by
  have hu := unpack_signBit_add (s := s) hb
  generalize BitVec.ofNat 64 (signBit s + (k * 2 ^ 52 + m)) = c at hu ⊢
  rcases lt_or_ge m (2 ^ 52) with h | h
  · have hk0 : k = 0 := by omega
    have h1 : (k * 2 ^ 52 + m) / 2 ^ 52 = 0 := by omega
    have h2 : (k * 2 ^ 52 + m) % 2 ^ 52 = m := by omega
    rw [if_pos h1, h2] at hu
    rw [f64Value_of_unpack hu, hk0]
    norm_num
  · have h0 : ¬ (k * 2 ^ 52 + m) / 2 ^ 52 = 0 := by omega
    rw [if_neg h0] at hu
    rw [f64Value_of_unpack hu]
    rcases eq_or_lt_of_le hm with h' | h'
    · have h1 : (k * 2 ^ 52 + m) / 2 ^ 52 = k + 2 := by omega
      have h2 : 2 ^ 52 + (k * 2 ^ 52 + m) % 2 ^ 52 = 2 ^ 52 := by omega
      have h3 : (m : ℚ) = ((2 ^ 52 : Nat) : ℚ) * 2 := by rw [h']; norm_num
      have h4 : ((k + 2 : Nat) : Int) - 1075 = 1 + ((k : Int) - 1074) := by push_cast; ring
      rw [h1, h2, h3, h4, zpow_add₀ (by norm_num), zpow_one]
      generalize ((2 ^ 52 : Nat) : ℚ) = y
      exact congrArg some (by ring)
    · have h1 : (k * 2 ^ 52 + m) / 2 ^ 52 = k + 1 := by omega
      have h2 : 2 ^ 52 + (k * 2 ^ 52 + m) % 2 ^ 52 = m := by omega
      have h4 : ((k + 1 : Nat) : Int) - 1075 = (k : Int) - 1074 := by push_cast; ring
      rw [h1, h2, h4]

/-- A finite binary64 number is an integer of at most 53 bits at a place not below that of the subnormal numbers. -/
theorem f64Value_form {c : F64} {w : ℚ} (h : f64Value c = some w) :
    ∃ (t : Int) (e : Int), |t| < 2 ^ 53 ∧ -1074 ≤ e ∧ w = (t : ℚ) * (2 : ℚ) ^ e := by
  have key : ∀ (s : Bool) (m : Nat) (e : Int), m < 2 ^ 53 → -1074 ≤ e → w = (if s then -1 else 1) * (m : ℚ) * (2 : ℚ) ^ e →
      ∃ (t : Int) (e : Int), |t| < 2 ^ 53 ∧ -1074 ≤ e ∧ w = (t : ℚ) * (2 : ℚ) ^ e := by
    intro s m e hm he hw
    refine ⟨if s then -(m : Int) else m, e, ?_, he, ?_⟩
    · cases s <;> simp <;> omega
    · rw [hw]; cases s <;> simp
  unfold f64Value at h
  have hmod := Nat.mod_lt c.toNat (y := 2 ^ 52) (by norm_num)
  unfold unpack at h
  dsimp only at h
  by_cases h1 : c.toNat / 2 ^ 52 % 2 ^ 11 = 2047
  · by_cases h3 : c.toNat % 2 ^ 52 = 0
    · rw [if_pos h1, if_pos h3] at h; cases h
    · rw [if_pos h1, if_neg h3] at h; cases h
  · by_cases h2 : c.toNat / 2 ^ 52 % 2 ^ 11 = 0
    · rw [if_neg h1, if_pos h2] at h
      exact key _ _ _ (by omega) (by norm_num) (Option.some.inj h).symm
    · rw [if_neg h1, if_neg h2] at h
      exact key _ (2 ^ 52 + c.toNat % 2 ^ 52) _ (by omega) (by omega) (Option.some.inj h).symm

/-- Everything `roundRat` can do: the quotient with its sign, rounded once to nearest even (R175). -/
theorem roundRat_roundsTo (s : Bool) (num : Nat) {den : Nat} (hd : 0 < den) :
    RoundsTo (roundRat s num den) s ((if s then -1 else 1) * ((num : ℚ) / den)) := by
  set σ : ℚ := if s then -1 else 1 with hσ
  have σσ : σ * σ = 1 := by rw [hσ]; cases s <;> simp
  have σabs : |σ| = 1 := by rw [hσ]; cases s <;> simp
  have hdq : (0 : ℚ) < den := by exact_mod_cast hd
  by_cases hn : num = 0
  · subst hn
    have hr : roundRat s 0 den = BitVec.ofNat 64 (signBit s + (0 * 2 ^ 52 + 0)) := rfl
    have hv := f64Value_place (s := s) (k := 0) (m := 0) (by norm_num) (by norm_num) (by norm_num)
    refine ⟨?_, fun _ => ⟨_, hr ▸ hv, fun c w _ => ?_⟩, fun h => ?_⟩
    · rw [hr]; exact signBit_add_sign (by norm_num)
    · simp only [Nat.cast_zero, zero_div, mul_zero, zero_mul, sub_zero, abs_zero]
      exact ⟨abs_nonneg _, fun h1 h2 => absurd (abs_eq_zero.1 h2) h1⟩
    · exfalso
      simp only [Nat.cast_zero, zero_div, mul_zero, abs_zero] at h
      have : (2 : ℚ) ^ 1024 = 2 ^ 970 * 2 ^ 54 := by rw [← pow_add]
      have h1 : (1 : ℚ) ≤ 2 ^ 970 := one_le_pow₀ (by norm_num)
      rw [this] at h
      generalize (2 : ℚ) ^ 970 = y at h h1
      linarith
  obtain ⟨he, hx2, hx1⟩ := lastPlace_spec hn hd
  obtain ⟨k, hk⟩ : ∃ k : Nat, lastPlace num den = (k : Int) - 1074 := ⟨(lastPlace num den + 1074).toNat, by omega⟩
  set x : ℚ := (num : ℚ) / den with hx
  set u : ℚ := (2 : ℚ) ^ ((k : Int) - 1074) with hu
  have hu0 : 0 < u := by rw [hu]; positivity
  rw [hk] at hx1 hx2
  set N := num * pow2 (-((k : Int) - 1074)) with hN
  set D := den * pow2 ((k : Int) - 1074) with hD
  have hD0 : 0 < D := Nat.mul_pos hd (Nat.pow_pos (by norm_num))
  have hDq : (0 : ℚ) < D := by exact_mod_cast hD0
  have hND : (N : ℚ) / D = x / u := by
    rw [hN, hD, hx, hu]; push_cast; exact pow2_ratio _ _ _
  set m := roundEven N D with hm
  have near : ∀ t : Int, |(m : ℚ) - x / u| ≤ |(t : ℚ) - x / u| ∧
      (t ≠ m → |(t : ℚ) - x / u| = |(m : ℚ) - x / u| → m % 2 = 0) := by
    intro t
    have := roundEven_nearest N D hD0 t
    have conv : ∀ v : Int, |(v : ℚ) - x / u| = ((|v * D - N| : Int) : ℚ) / D := by
      intro v
      rw [← hND, Int.cast_abs, eq_div_iff hDq.ne', ← abs_of_pos hDq, ← abs_mul, abs_of_pos hDq]
      congr 1
      push_cast
      field_simp
    have cm := conv (m : Int)
    rw [Int.cast_natCast] at cm
    rw [cm, conv t]
    refine ⟨?_, fun h1 h2 => this.2 h1 ?_⟩
    · apply div_le_div_of_nonneg_right _ hDq.le
      exact_mod_cast this.1
    · rw [div_left_inj' hDq.ne'] at h2
      exact_mod_cast h2
  have xu2 : x / u < 2 ^ 53 := by rw [div_lt_iff₀ hu0]; exact hx2
  have xu1 : 0 < k → 2 ^ 52 ≤ x / u := by
    intro h; rw [le_div_iff₀ hu0]; exact hx1 (by omega)
  -- the bounds on the significand
  have m53 : m ≤ 2 ^ 53 := by
    by_contra hc
    have h1 := (near (2 ^ 53)).1
    have h2 : (2 ^ 53 + 1 : ℚ) ≤ m := by exact_mod_cast (not_le.1 hc)
    rw [abs_of_pos (by linarith), abs_of_pos (by push_cast; linarith)] at h1
    push_cast at h1
    linarith
  have m52 : 0 < k → 2 ^ 52 ≤ m := by
    intro h
    have hx := xu1 h
    by_contra hc
    have h1 := (near (2 ^ 52)).1
    have h2 : (m + 1 : ℚ) ≤ 2 ^ 52 := by exact_mod_cast (not_le.1 hc)
    rw [abs_of_nonpos (by linarith), abs_of_nonpos (by push_cast; linarith)] at h1
    push_cast at h1
    linarith
  have hbits : roundRat s num den = if 2047 * 2 ^ 52 ≤ k * 2 ^ 52 + m then infinity s
      else BitVec.ofNat 64 (signBit s + (k * 2 ^ 52 + m)) := by
    have h0 : (lastPlace num den + 1074).toNat = k := by omega
    simp only [roundRat, if_neg hn, h0]
    rw [hk]
  -- where it overflows
  have u971 : (k : Int) = 2045 → u = 2 ^ 971 := by intro h; rw [hu, h, show (2045 : Int) - 1074 = ((971 : Nat) : Int) by norm_num, zpow_natCast]
  have big : 2047 * 2 ^ 52 ≤ k * 2 ^ 52 + m ↔ 2 ^ 1024 - 2 ^ 970 ≤ x := by
    have p0 : (0 : ℚ) < 2 ^ 970 := by positivity
    have p1 : (2 : ℚ) ^ 1024 = 2 ^ 970 * 2 ^ 54 := by rw [← pow_add]
    have p2 : (2 : ℚ) ^ 971 = 2 ^ 970 * 2 := by rw [← pow_succ]
    rcases lt_trichotomy k 2045 with h | h | h
    · have hl : ¬ 2047 * 2 ^ 52 ≤ k * 2 ^ 52 + m := by omega
      have hu' : u ≤ 2 ^ 970 := by
        rw [hu, ← zpow_natCast]; exact zpow_le_zpow_right₀ (by norm_num) (by push_cast; omega)
      refine iff_of_false hl (not_le.2 ?_)
      rw [p1]
      have : x < 2 ^ 53 * 2 ^ 970 := lt_of_lt_of_le hx2 (mul_le_mul_of_nonneg_left hu' (by positivity))
      have aux : ∀ y v : ℚ, 0 < y → v < 2 ^ 53 * y → v < y * 2 ^ 54 - y := by intro y v h1 h2; linarith
      exact aux _ _ p0 this
    · have hu' := u971 (by omega)
      have hxu : x = x / u * u := by field_simp
      rw [p1]
      constructor
      · intro hb
        have hm' : m = 2 ^ 53 := by omega
        by_contra hc
        have h1 := (near (2 ^ 53 - 1)).1
        have h3 : x / u < 2 ^ 53 - 1 / 2 := by
          rw [div_lt_iff₀ hu0, hu', p2]
          generalize (2 : ℚ) ^ 970 = y at *
          linarith
        rw [hm'] at h1
        push_cast at h1
        rw [abs_of_pos (by linarith)] at h1
        rcases le_or_gt (x / u) (2 ^ 53 - 1) with h4 | h4
        · rw [abs_of_nonneg (by linarith)] at h1; linarith
        · rw [abs_of_neg (by linarith)] at h1; linarith
      · intro hb
        by_contra hc
        have hm' : m + 1 ≤ 2 ^ 53 := by omega
        have hmq : (m : ℚ) + 1 ≤ 2 ^ 53 := by exact_mod_cast hm'
        have h3 : 2 ^ 53 - 1 / 2 ≤ x / u := by
          rw [le_div_iff₀ hu0, hu', p2]
          generalize (2 : ℚ) ^ 970 = y at *
          linarith
        have h1 := near (2 ^ 53)
        push_cast at h1
        rw [abs_of_neg (by linarith), abs_of_pos (by linarith)] at h1
        have hm2 : (m : ℚ) + 1 = 2 ^ 53 := by linarith [h1.1]
        have hm3 : m + 1 = 2 ^ 53 := by exact_mod_cast hm2
        have := h1.2 (by omega) (by linarith [h1.1])
        omega
    · have hl : 2047 * 2 ^ 52 ≤ k * 2 ^ 52 + m := by have := m52 (by omega); omega
      have hu' : (2 : ℚ) ^ 972 ≤ u := by
        rw [hu, ← zpow_natCast]; exact zpow_le_zpow_right₀ (by norm_num) (by push_cast; omega)
      refine iff_of_true hl ?_
      have h5 := hx1 (by omega)
      have h6 : (2 : ℚ) ^ 52 * 2 ^ 972 ≤ x := le_trans (mul_le_mul_of_nonneg_left hu' (by positivity)) h5
      rw [← pow_add] at h6
      exact le_trans (sub_le_self _ p0.le) h6
  have xpos : 0 ≤ x := by rw [hx]; positivity
  have absx : |σ * x| = x := by rw [abs_mul, σabs, one_mul, abs_of_nonneg xpos]
  by_cases ho : 2047 * 2 ^ 52 ≤ k * 2 ^ 52 + m
  · rw [hbits, if_pos ho]
    refine ⟨?_, fun h => absurd (big.1 ho) (not_le.2 (absx ▸ h)), fun _ => rfl⟩
    exact signBit_add_sign (n := 2047 * 2 ^ 52) (by norm_num)
  rw [hbits, if_neg ho]
  have hlt : k * 2 ^ 52 + m < 2 ^ 63 := by omega
  refine ⟨signBit_add_sign hlt, fun _ => ⟨_, f64Value_place m53 m52 (not_le.1 ho), fun c w hc => ?_⟩,
    fun h => absurd (big.2 (absx ▸ h)) ho⟩
  obtain ⟨t, e, ht, hE, hw⟩ := f64Value_form hc
  -- bring the sign to the candidate
  have dist : ∀ v : ℚ, |v - σ * x| = |σ * v - x| := by
    intro v
    rw [← one_mul |v - σ * x|, ← σabs, ← abs_mul]
    congr 1
    rw [mul_sub, ← mul_assoc, σσ, one_mul]
  have scale : ∀ v : ℚ, |v * u - x| = |v - x / u| * u := by
    intro v
    rw [← abs_of_pos hu0, ← abs_mul, abs_of_pos hu0, sub_mul, div_mul_cancel₀ _ hu0.ne']
  have hz : |σ * (m : ℚ) * u - σ * x| = |(m : ℚ) - x / u| * u := by
    rw [dist, show σ * (σ * (m : ℚ) * u) = (σ * σ) * ((m : ℚ) * u) by ring, σσ, one_mul, scale]
  have lsb : m % 2 = 0 → (BitVec.ofNat 64 (signBit s + (k * 2 ^ 52 + m))).getLsbD 0 = false := by
    intro h
    rw [BitVec.getLsbD, signBit_add_toNat hlt, Nat.testBit_zero]
    simp only [decide_eq_false_iff_not]
    cases s <;> simp only [signBit, if_true, if_false, Bool.false_eq_true] <;> omega
  rcases le_or_gt ((k : Int) - 1074) e with hge | hlt'
  · -- the candidate is a multiple of the last place
    obtain ⟨v, hv⟩ : ∃ v : Int, σ * w = (v : ℚ) * u := by
      obtain ⟨j, hj⟩ := Int.eq_ofNat_of_zero_le (sub_nonneg.2 hge)
      refine ⟨(if s then -1 else 1) * t * 2 ^ j, ?_⟩
      rw [hw, show e = (j : Int) + ((k : Int) - 1074) by omega, zpow_add₀ (by norm_num), zpow_natCast, hσ, hu]
      push_cast
      ring
    have hn' := near v
    rw [hz, dist, hv, scale]
    refine ⟨mul_le_mul_of_nonneg_right hn'.1 hu0.le, fun h1 h2 => lsb (hn'.2 ?_ (mul_right_cancel₀ hu0.ne' h2))⟩
    rintro rfl
    apply h1
    rw [show w = σ * (σ * w) by rw [← mul_assoc, σσ, one_mul], hv]
    push_cast
    ring
  · -- the candidate lies below the binade, farther away than its lower end
    have hk0 : 0 < k := by omega
    have hb : |σ * w| < 2 ^ 52 * u := by
      rw [abs_mul, σabs, one_mul, hw, abs_mul, abs_of_pos (by positivity : (0 : ℚ) < (2 : ℚ) ^ e)]
      have h1 : ((|t| : Int) : ℚ) < 2 ^ 53 := by exact_mod_cast ht
      rw [Int.cast_abs] at h1
      have h2 : (2 : ℚ) ^ e * 2 ≤ u := by
        rw [hu, ← zpow_add_one₀ (by norm_num)]; exact zpow_le_zpow_right₀ (by norm_num) (by omega)
      have h3 : (0 : ℚ) < (2 : ℚ) ^ e := by positivity
      nlinarith
    have h4 := hx1 (by omega)
    have h5 := (near (2 ^ 52)).1
    have h6 : |(m : ℚ) - x / u| * u ≤ |((2 ^ 52 : Int) : ℚ) - x / u| * u := mul_le_mul_of_nonneg_right h5 hu0.le
    rw [← scale ((2 ^ 52 : Int) : ℚ)] at h6
    rw [Int.cast_pow, Int.cast_ofNat, abs_of_nonpos (by linarith : (2 : ℚ) ^ 52 * u - x ≤ 0)] at h6
    have h7 := (abs_lt.1 hb).2
    have h8 : |(m : ℚ) - x / u| * u < |σ * w - x| :=
      lt_of_lt_of_le (lt_of_le_of_lt h6 (by linarith)) (neg_le_abs _)
    rw [hz, dist]
    exact ⟨h8.le, fun _ h => absurd h h8.ne'⟩

end Sys2Proof.Machine
end

