-- ==== Sys2Proof/Laws/PerInstr.lean ====
section
/-! SUPPORT. The family RowMatch: what the encoder writes for an operation matches the operation's row of
`spec/opcode_table.json`: the encoding space and, under the row's mask, the first byte. One lemma per constructor. -/

namespace Sys2Proof.Laws.RowMatch

/-- The encoding space, mask and match of the operation's row. -/
def row : Instr → Channel × Byte × Byte
  | .encRd _ _ => (.command, 0xFF, 0x01)
  | .encWr _ _ => (.command, 0xFF, 0x02)
  | .decRsp _ => (.command, 0xFF, 0x03)
  | .regRd _ _ => (.command, 0xFF, 0x04)
  | .regWr _ _ => (.command, 0xFF, 0x05)
  | .start => (.command, 0xFF, 0x10)
  | .stop => (.command, 0xFF, 0x11)
  | .setRange _ => (.command, 0xFF, 0x12)
  | .setFilter _ _ => (.command, 0xFF, 0x13)
  | .configure _ _ _ => (.command, 0xFF, 0x14)
  | .decRaw20 _ _ _ => (.command, 0xFF, 0x20)
  | .sext20 _ => (.command, 0xFF, 0x21)
  | .toG _ _ => (.command, 0xFF, 0x22)
  | .waitReady _ => (.command, 0xFF, 0x30)
  | .rdAxisRaw _ => (.command, 0xFF, 0x31)
  | .rdAxisTriplet => (.command, 0xFF, 0x32)
  | .drainFifo => (.command, 0xFF, 0x33)
  | .acqN _ => (.command, 0xFF, 0x34)
  | .rdTripletRaw => (.command, 0xFF, 0x40)
  | .rdTripletG => (.command, 0xFF, 0x41)
  | .rdBurstRaw _ => (.command, 0xFF, 0x42)
  | .rdBurstG _ => (.command, 0xFF, 0x43)
  | .status => (.command, 0xFF, 0x44)
  | .identify => (.command, 0xFF, 0x45)
  | .frameRd _ _ => (.wire, 0x01, 0x01)
  | .frameWr _ _ => (.wire, 0x01, 0x00)
  | .rd1DevidAd => (.wire, 0xFF, 0x01)
  | .rd1DevidMst => (.wire, 0xFF, 0x03)
  | .rd1Partid => (.wire, 0xFF, 0x05)
  | .rd1Status => (.wire, 0xFF, 0x09)
  | .rd3Xdata => (.wire, 0xFF, 0x11)
  | .rd3Ydata => (.wire, 0xFF, 0x17)
  | .rd3Zdata => (.wire, 0xFF, 0x1D)
  | .rd3FifoData => (.wire, 0xFF, 0x23)
  | .wrFilter _ => (.wire, 0xFF, 0x50)
  | .rd1Range => (.wire, 0xFF, 0x59)
  | .wrRange _ => (.wire, 0xFF, 0x58)
  | .rd1PowerCtl => (.wire, 0xFF, 0x5B)
  | .wrPowerCtl _ => (.wire, 0xFF, 0x5A)

/-- The encoding of the operation matches its row. -/
def Statement (i : Instr) : Prop :=
  ∃ b rest, encode i = ⟨(row i).1, b :: rest⟩ ∧ b &&& (row i).2.1 = (row i).2.2

/-- The command byte of a read has bit 0 set (R90). -/
theorem readCommand_bit (a : Addr) : Machine.readCommand a &&& 0x01 = 0x01 := by revert a; decide

/-- The command byte of a write has bit 0 clear (R90). -/
theorem writeCommand_bit (a : Addr) : Machine.writeCommand a &&& 0x01 = 0x00 := by revert a; decide

/-- Every bit is compared under the full mask. -/
theorem masked (b : Byte) : b &&& 0xFF = b := by revert b; decide

theorem encRd (a : Addr) (b : Nat) : Statement (.encRd a b) := ⟨_, _, rfl, masked 0x01⟩
theorem encWr (a : Addr) (b : Byte) : Statement (.encWr a b) := ⟨_, _, rfl, masked 0x02⟩
theorem decRsp (a : List Byte) : Statement (.decRsp a) := ⟨_, _, rfl, masked 0x03⟩
theorem regRd (a : Addr) (b : Nat) : Statement (.regRd a b) := ⟨_, _, rfl, masked 0x04⟩
theorem regWr (a : Addr) (b : Byte) : Statement (.regWr a b) := ⟨_, _, rfl, masked 0x05⟩
theorem start : Statement .start := ⟨_, _, rfl, masked 0x10⟩
theorem stop : Statement .stop := ⟨_, _, rfl, masked 0x11⟩
theorem setRange (a : Decimal) : Statement (.setRange a) := ⟨_, _, rfl, masked 0x12⟩
theorem setFilter (a : Decimal) (b : Int) : Statement (.setFilter a b) := ⟨_, _, rfl, masked 0x13⟩
theorem configure (a : Decimal) (b : Decimal) (c : Int) : Statement (.configure a b c) := ⟨_, _, rfl, masked 0x14⟩
theorem decRaw20 (a : Byte) (b : Byte) (c : Byte) : Statement (.decRaw20 a b c) := ⟨_, _, rfl, masked 0x20⟩
theorem sext20 (a : Raw20) : Statement (.sext20 a) := ⟨_, _, rfl, masked 0x21⟩
theorem toG (a : Int) (b : Number) : Statement (.toG a b) := ⟨_, _, rfl, masked 0x22⟩
theorem waitReady (a : Ticks) : Statement (.waitReady a) := ⟨_, _, rfl, masked 0x30⟩
theorem rdAxisRaw (a : Byte) : Statement (.rdAxisRaw a) := ⟨_, _, rfl, masked 0x31⟩
theorem rdAxisTriplet : Statement .rdAxisTriplet := ⟨_, _, rfl, masked 0x32⟩
theorem drainFifo : Statement .drainFifo := ⟨_, _, rfl, masked 0x33⟩
theorem acqN (a : Nat) : Statement (.acqN a) := ⟨_, _, rfl, masked 0x34⟩
theorem rdTripletRaw : Statement .rdTripletRaw := ⟨_, _, rfl, masked 0x40⟩
theorem rdTripletG : Statement .rdTripletG := ⟨_, _, rfl, masked 0x41⟩
theorem rdBurstRaw (a : Nat) : Statement (.rdBurstRaw a) := ⟨_, _, rfl, masked 0x42⟩
theorem rdBurstG (a : Nat) : Statement (.rdBurstG a) := ⟨_, _, rfl, masked 0x43⟩
theorem status : Statement .status := ⟨_, _, rfl, masked 0x44⟩
theorem identify : Statement .identify := ⟨_, _, rfl, masked 0x45⟩
theorem frameRd (a : Addr) (b : Nat) : Statement (.frameRd a b) := ⟨_, _, rfl, readCommand_bit a⟩
theorem frameWr (a : Addr) (b : Byte) : Statement (.frameWr a b) := ⟨_, _, rfl, writeCommand_bit a⟩
theorem rd1DevidAd : Statement .rd1DevidAd := ⟨_, _, rfl, masked 0x01⟩
theorem rd1DevidMst : Statement .rd1DevidMst := ⟨_, _, rfl, masked 0x03⟩
theorem rd1Partid : Statement .rd1Partid := ⟨_, _, rfl, masked 0x05⟩
theorem rd1Status : Statement .rd1Status := ⟨_, _, rfl, masked 0x09⟩
theorem rd3Xdata : Statement .rd3Xdata := ⟨_, _, rfl, masked 0x11⟩
theorem rd3Ydata : Statement .rd3Ydata := ⟨_, _, rfl, masked 0x17⟩
theorem rd3Zdata : Statement .rd3Zdata := ⟨_, _, rfl, masked 0x1D⟩
theorem rd3FifoData : Statement .rd3FifoData := ⟨_, _, rfl, masked 0x23⟩
theorem wrFilter (a : Byte) : Statement (.wrFilter a) := ⟨_, _, rfl, masked 0x50⟩
theorem rd1Range : Statement .rd1Range := ⟨_, _, rfl, masked 0x59⟩
theorem wrRange (a : Byte) : Statement (.wrRange a) := ⟨_, _, rfl, masked 0x58⟩
theorem rd1PowerCtl : Statement .rd1PowerCtl := ⟨_, _, rfl, masked 0x5B⟩
theorem wrPowerCtl (a : Byte) : Statement (.wrPowerCtl a) := ⟨_, _, rfl, masked 0x5A⟩

end Sys2Proof.Laws.RowMatch
end

