-- ==== Sys2Proof/Tests/Slice0.lean ====
section
/-! SUPPORT. Small tests: expected values are those of `95_test_vectors.md` and of the worked examples of the rules, or written
out by hand from the tables of `30_encoding.md`. Then, for each statement with hypotheses, a witness: a concrete state and
operands that meet them. -/

namespace Sys2Proof.Tests

open Machine

/-! ### Helpers -/

/-- The outcome is a next state with the property. -/
def next (o : Host.Outcome State Fault Refusal) (p : State → Bool) : Bool :=
  match o with
  | .next t => p t
  | .fault _ => false
  | .refused _ => false

/-- The state after reset with these answers to its transfers and ready samples. -/
def scripted (cues : List Cue) (ready : List ReadyCue) : State :=
  { State.reset with env := { Env.initial with cues := cues, readyCues := ready } }

/-- The state after reset with this FIFO in the reference device. -/
def withFifo (l : List Payload) : State :=
  { State.reset with env := { Env.initial with device := some { RefDevice.initial with fifo := l } } }

/-- The same with the scale factor of 2.048 g. -/
def scaled (s : State) : State := { s with rangeSel := some ⟨2048, 3⟩, scale := some (scaleOf .binary64 ⟨2048, 3⟩) }

/-- A response, answered in the device's place. -/
def responds (l : List Byte) : Cue := .answer (.respond l)

/-- The frames transferred so far. -/
def frames (s : State) : List Frame :=
  s.env.history.filterMap fun ev => match ev with
    | .transfer f _ => some f
    | .digitalRead _ _ => none
    | .sleep _ => none

/-- The operation ended without an error, with this result. -/
def ended (r : Result) (t : State) : Bool := decide (t.op = none ∧ t.fsm = .idle ∧ t.err = .ok ∧ t.res = r)

/-- The operation ended with this error. -/
def failed (c : ErrCode) (t : State) : Bool := decide (t.op = none ∧ t.fsm = .idle ∧ t.err = c)

/-! ### WellFormed refuses what cannot be presented -/

theorem test_wf_toG_low : Instr.wellFormed .binary64 (.toG (-0x80001) (.binary64 0)) = false := by decide
theorem test_wf_toG_high : Instr.wellFormed .binary64 (.toG 0x80000 (.binary64 0)) = false := by decide
theorem test_wf_toG_ends : (Instr.wellFormed .binary64 (.toG (-0x80000) (.binary64 0)) && Instr.wellFormed .binary64 (.toG 0x7FFFF (.binary64 0))) = true := by decide
theorem test_wf_toG_format : (Instr.wellFormed .exact (.toG 0 (.binary64 0)) || Instr.wellFormed .binary64 (.toG 0 (.exact 0)) ||
    Instr.wellFormed (.other 1) (.toG 0 (.exact 0)) || Instr.wellFormed .binary64 (.toG 0 (.other 0))) = false := by decide
theorem test_wf_frameRd_empty : Instr.wellFormed .binary64 (.frameRd 0x03 0) = false := by decide
theorem test_wf_frameRd_named : Instr.wellFormed .binary64 (.frameRd 0x11 3) = false := by decide
theorem test_wf_frameRd_other : Instr.wellFormed .binary64 (.frameRd 0x11 1) = true := by decide
theorem test_wf_frameWr_named : Instr.wellFormed .binary64 (.frameWr 0x2D 0) = false := by decide
theorem test_wf_frameWr_other : Instr.wellFormed .binary64 (.frameWr 0x2E 0) = true := by decide

/-! ### Decoding of words written out from R101 and R112 (operands: log entry 7) -/

theorem test_decode_encRd : decode .binary64 ⟨.command, [0x01, 0x7F, 0x03]⟩ = .ok (.encRd 0x7F 3) := by decide
theorem test_decode_encRd_long : decode .binary64 ⟨.command, [0x01, 0x00, 0x80, 0x01]⟩ = .ok (.encRd 0x00 128) := by decide
theorem test_decode_encWr : decode .binary64 ⟨.command, [0x02, 0x2D, 0xFF]⟩ = .ok (.encWr 0x2D 0xFF) := by decide
theorem test_decode_decRsp : decode .binary64 ⟨.command, [0x03, 0x02, 0xFF, 0x12]⟩ = .ok (.decRsp [0xFF, 0x12]) := by decide
theorem test_decode_regRd : decode .binary64 ⟨.command, [0x04, 0x2C, 0x01]⟩ = .ok (.regRd 0x2C 1) := by decide
theorem test_decode_regWr : decode .binary64 ⟨.command, [0x05, 0x2C, 0x82]⟩ = .ok (.regWr 0x2C 0x82) := by decide
theorem test_decode_start : decode .binary64 ⟨.command, [0x10]⟩ = .ok .start := by decide
theorem test_decode_stop : decode .binary64 ⟨.command, [0x11]⟩ = .ok .stop := by decide
theorem test_decode_setRange : decode .binary64 ⟨.command, [0x12, 0x80, 0x20, 0x03]⟩ = .ok (.setRange ⟨2048, 3⟩) := by decide
theorem test_decode_setFilter :
    decode .binary64 ⟨.command, [0x13, 0xFA, 0x01, 0x00, 0x0C]⟩ = .ok (.setFilter ⟨125, 0⟩ 6) := by decide
theorem test_decode_configure :
    decode .binary64 ⟨.command, [0x14, 0x80, 0x20, 0x03, 0xFA, 0x01, 0x00, 0x01]⟩ =
      .ok (.configure ⟨2048, 3⟩ ⟨125, 0⟩ (-1)) := by decide
theorem test_decode_decRaw20 : decode .binary64 ⟨.command, [0x20, 0x12, 0x34, 0x5F]⟩ = .ok (.decRaw20 0x12 0x34 0x5F) := by decide
theorem test_decode_sext20 : decode .binary64 ⟨.command, [0x21, 0x0A, 0xBC, 0xDE]⟩ = .ok (.sext20 0xABCDE) := by decide
theorem test_decode_toG :
    decode .binary64 ⟨.command, [0x22, 0x02, 0x3E, 0xD0, 0x62, 0x4D, 0xD2, 0xF1, 0xA9, 0xFC]⟩ =
      .ok (.toG 1 (.binary64 0x3ED0624DD2F1A9FC)) := by decide
theorem test_decode_waitReady : decode .binary64 ⟨.command, [0x30, 0x03]⟩ = .ok (.waitReady 3) := by decide
theorem test_decode_rdAxisRaw : decode .binary64 ⟨.command, [0x31, 0x02]⟩ = .ok (.rdAxisRaw 2) := by decide
theorem test_decode_rdAxisTriplet : decode .binary64 ⟨.command, [0x32]⟩ = .ok .rdAxisTriplet := by decide
theorem test_decode_drainFifo : decode .binary64 ⟨.command, [0x33]⟩ = .ok .drainFifo := by decide
theorem test_decode_acqN : decode .binary64 ⟨.command, [0x34, 0x03]⟩ = .ok (.acqN 3) := by decide
theorem test_decode_rdTripletRaw : decode .binary64 ⟨.command, [0x40]⟩ = .ok .rdTripletRaw := by decide
theorem test_decode_rdTripletG : decode .binary64 ⟨.command, [0x41]⟩ = .ok .rdTripletG := by decide
theorem test_decode_rdBurstRaw : decode .binary64 ⟨.command, [0x42, 0x01]⟩ = .ok (.rdBurstRaw 1) := by decide
theorem test_decode_rdBurstG : decode .binary64 ⟨.command, [0x43, 0x00]⟩ = .ok (.rdBurstG 0) := by decide
theorem test_decode_status : decode .binary64 ⟨.command, [0x44]⟩ = .ok .status := by decide
theorem test_decode_identify : decode .binary64 ⟨.command, [0x45]⟩ = .ok .identify := by decide
theorem test_decode_frameRd : decode .binary64 ⟨.wire, [0x5F, 0x00, 0x00]⟩ = .ok (.frameRd 0x2F 2) := by decide
theorem test_decode_frameRd_filler : decode .binary64 ⟨.wire, [0x11, 0xFF]⟩ = .ok (.frameRd 0x08 1) := by decide
theorem test_decode_frameWr : decode .binary64 ⟨.wire, [0xFE, 0xFF]⟩ = .ok (.frameWr 0x7F 0xFF) := by decide
theorem test_decode_rd1DevidAd : decode .binary64 ⟨.wire, [0x01, 0x00]⟩ = .ok .rd1DevidAd := by decide
theorem test_decode_rd1DevidMst : decode .binary64 ⟨.wire, [0x03, 0x00]⟩ = .ok .rd1DevidMst := by decide
theorem test_decode_rd1Partid : decode .binary64 ⟨.wire, [0x05, 0x00]⟩ = .ok .rd1Partid := by decide
theorem test_decode_rd1Status : decode .binary64 ⟨.wire, [0x09, 0x00]⟩ = .ok .rd1Status := by decide
theorem test_decode_rd3Xdata : decode .binary64 ⟨.wire, [0x11, 0x00, 0x00, 0x00]⟩ = .ok .rd3Xdata := by decide
theorem test_decode_rd3Ydata : decode .binary64 ⟨.wire, [0x17, 0x00, 0x00, 0x00]⟩ = .ok .rd3Ydata := by decide
theorem test_decode_rd3Zdata : decode .binary64 ⟨.wire, [0x1D, 0x00, 0x00, 0x00]⟩ = .ok .rd3Zdata := by decide
theorem test_decode_rd3FifoData : decode .binary64 ⟨.wire, [0x23, 0x00, 0x00, 0x00]⟩ = .ok .rd3FifoData := by decide
theorem test_decode_wrFilter : decode .binary64 ⟨.wire, [0x50, 0x6A]⟩ = .ok (.wrFilter 0x6A) := by decide
theorem test_decode_rd1Range : decode .binary64 ⟨.wire, [0x59, 0x00]⟩ = .ok .rd1Range := by decide
theorem test_decode_wrRange : decode .binary64 ⟨.wire, [0x58, 0x82]⟩ = .ok (.wrRange 0x82) := by decide
theorem test_decode_rd1PowerCtl : decode .binary64 ⟨.wire, [0x5B, 0x00]⟩ = .ok .rd1PowerCtl := by decide
theorem test_decode_wrPowerCtl : decode .binary64 ⟨.wire, [0x5A, 0x01]⟩ = .ok (.wrPowerCtl 0x01) := by decide

/-- V-COD-5: the invalid frames. -/
theorem test_decode_invalid_frames :
    ([[], [0x11], [0x5A], [0x5A, 0x01, 0x02]] : List Frame).all
      (fun f => decide (decode .binary64 ⟨.wire, f⟩ = .error .invalidFrame)) = true := by decide

/-- R232: a code outside the table, and R133: an address of eight bits. -/
theorem test_decode_refusals :
    decode .binary64 ⟨.command, [0x46]⟩ = .error (.unknownCode 0x46) ∧
      decode .binary64 ⟨.command, [0x04, 0x80, 0x01]⟩ = .error .addressTooWide := by decide

/-- The ends of the operand ranges survive encoding and decoding. -/
theorem test_round_trip_ends :
    ([(.binary64, .toG (-0x80000) (.binary64 0x8000000000000001)), (.binary64, .toG 0x7FFFF (.binary64 0xFFFFFFFFFFFFFFFF)),
      (.exact, .toG 0 (.exact (-3 / 64000))), (.other 2, .toG 1 (.other 300)), (.exact, .sext20 0xFFFFF),
      (.exact, .sext20 0x80000), (.exact, .acqN 127), (.exact, .acqN 128), (.exact, .acqN 100000),
      (.exact, .setRange ⟨-2048, 200⟩), (.exact, .decRsp []), (.exact, .frameRd 0x7F 4), (.exact, .frameWr 0x00 0xFF)] :
      List (Numerics × Instr)).all (fun p => decide (decode p.1 (encode p.2) = .ok p.2)) = true := by decide +kernel

/-- R113: what a scale factor's bytes stand for is a number of the core's own format: here 5 / (2 + 1). -/
theorem test_decode_toG_exact : decode .exact ⟨.command, [0x22, 0x02, 0x0A, 0x02]⟩ = .ok (.toG 1 (.exact (5 / 3))) := by
  decide +kernel

/-- The table words of two rows of different widths (`spec/opcode_table.json`). -/
theorem test_table_words :
    decodeTableWord 8 0x33 = some .drainFifo ∧ decodeTableWord 32 0x23 = some .rd3FifoData ∧
      decodeTableWord 16 0x825A = some (.wrPowerCtl 0x82) := by decide

/-! ### The operations -/

/-- R130: `encode_read(0x08, 3)`, and the refusal of length 0. -/
theorem test_encRd : next (exec (.encRd 0x08 3) State.reset) (ended (.bytes [0x11, 0x00, 0x00, 0x00])) = true := by decide
theorem test_encRd_zero : next (exec (.encRd 0x08 0) State.reset) (fun t => decide (t.err.number = 1)) = true := by decide
/-- V-COD-2, the largest address. -/
theorem test_encWr : next (exec (.encWr 0x7F 0xFF) State.reset) (ended (.bytes [0xFE, 0xFF])) = true := by decide
/-- V-COD-3. -/
theorem test_decRsp : next (exec (.decRsp [0xFF, 0x12, 0x34, 0x5F]) State.reset)
    (ended (.bytes [0x12, 0x34, 0x5F])) = true := by decide
/-- V-COD-6. -/
theorem test_regRd : next (exec (.regRd 0x00 4) State.reset)
    (fun t => ended (.bytes [0xAD, 0x1D, 0xED, 0x01]) t && decide (frames t = [[0x01, 0x00, 0x00, 0x00, 0x00]])) = true := by
  decide
theorem test_regRd_undocumented : next (exec (.regRd 0x30 1) State.reset)
    (fun t => failed .invalidArgument t && decide (frames t = [])) = true := by decide
theorem test_regWr : next (exec (.regWr 0x29 0x20) State.reset)
    (fun t => ended .none t && decide (frames t = [[0x52, 0x20]]) &&
      decide (t.env.device.map (fun d => Memory.read t.cfg.regmap d.mem 0x29) = some 0x20)) = true := by decide
/-- V-COD-7: a response of the wrong length. -/
theorem test_wrong_length : next (exec (.regRd 0x08 3) (scripted [responds [0x00, 0x12, 0x34]] []))
    (failed .transportError) = true := by decide
/-- V-CFG-1, the row 0xFE. -/
theorem test_stop : next (exec .stop (scripted [responds [0x00, 0xFE]] []))
    (fun t => ended .none t && decide (frames t = [[0x5B, 0x00], [0x5A, 0xFF]])) = true := by decide
theorem test_start : next (exec .start (scripted [responds [0x00, 0xFF]] []))
    (fun t => ended .none t && decide (frames t = [[0x5B, 0x00], [0x5A, 0xFE]])) = true := by decide
/-- The example of R154. -/
theorem test_setRange : next (exec (.setRange ⟨4096, 3⟩)
      (scripted [responds [0, 0x00], .device, responds [0, 0x81], .device, responds [0, 0x01], .device] []))
    (fun t => ended .none t && decide (t.rangeSel = some ⟨4096, 3⟩ ∧ t.scale = some (.binary64 0x3EE0624DD2F1A9FC) ∧
      frames t = [[0x5B, 0x00], [0x5A, 0x01], [0x59, 0x00], [0x58, 0x82], [0x5B, 0x00], [0x5A, 0x00]])) = true := by
  decide +kernel
/-- V-CFG-3 and V-CFG-7: an unsupported range, and a failure of the sixth transfer. -/
theorem test_setRange_failures :
    next (exec (.setRange ⟨3, 0⟩) State.reset) (fun t => failed .unsupportedRange t && decide (frames t = [])) = true ∧
    next (exec (.setRange ⟨8192, 3⟩)
        (scaled (scripted [.device, .device, .device, .device, .device, .deliveredButFails 7] [])))
      (fun t => failed .transportError t &&
        decide (t.rangeSel = some ⟨2048, 3⟩ ∧ t.scale = some (.binary64 0x3ED0624DD2F1A9FC))) = true := by
  decide +kernel
/-- The second example of R155. -/
theorem test_setFilter : next (exec (.setFilter ⟨3906, 3⟩ 6) State.reset)
    (fun t => ended .none t && decide (t.odrSel = some ⟨3906, 3⟩ ∧ t.hpfSel = some 6 ∧
      frames t = [[0x5B, 0x00], [0x5A, 0x01], [0x50, 0x6A], [0x5B, 0x00], [0x5A, 0x00]])) = true := by decide +kernel
/-- V-CFG-5. -/
theorem test_setFilter_failures :
    ([(⟨100, 0⟩, 9, .unsupportedRate), (⟨78125, 4⟩, 0, .unsupportedRate), (⟨125, 0⟩, 7, .unsupportedFilter),
      (⟨125, 0⟩, -1, .unsupportedFilter)] : List (Decimal × Int × ErrCode)).all
      (fun c => next (exec (.setFilter c.1 c.2.1) State.reset) (failed c.2.2)) = true := by decide +kernel
/-- The example of R158. -/
theorem test_configure : next (exec (.configure ⟨2048, 3⟩ ⟨125, 0⟩ 0) State.reset)
    (fun t => ended .none t && decide (t.scale = some (.binary64 0x3ED0624DD2F1A9FC) ∧ frames t =
      [[0x5B, 0x00], [0x5A, 0x01], [0x59, 0x00], [0x58, 0x81], [0x5B, 0x00], [0x5A, 0x00],
       [0x5B, 0x00], [0x5A, 0x01], [0x50, 0x05], [0x5B, 0x00], [0x5A, 0x00]])) = true := by decide +kernel
/-- S2, S1. -/
theorem test_decRaw20 : next (exec (.decRaw20 0x12 0x34 0x5F) State.reset) (ended (.raw 0x12345)) = true := by decide
theorem test_sext20 : next (exec (.sext20 0xABCDE) State.reset) (ended (.int (-344866))) = true := by decide
/-- The example of R173, and V-DEC-2 at the most negative code: `-float(2.048)`. -/
theorem test_toG : next (exec (.toG 74565 (.binary64 0x3ED0624DD2F1A9FC)) State.reset)
    (ended (.float (.binary64 0x3FD2A428F5C28F5C))) = true := by decide +kernel
theorem test_toG_negative : next (exec (.toG (-524288) (.binary64 0x3ED0624DD2F1A9FC)) State.reset)
    (ended (.float (.binary64 0xC000624DD2F1A9FC))) = true := by decide +kernel
/-- R175, the rational reading: `74565 * 2 * 2.048 / 2^20 = 74565 / 256000`, after `set_range(2.048)`. -/
theorem test_exact : next (exec (.setRange ⟨2048, 3⟩) { State.reset with cfg := { defaultConfig with numerics := .exact } })
    (fun t => decide (t.scale = some (.exact (1 / 256000))) &&
      next (exec (.toG 74565 (.exact (1 / 256000))) t) (ended (.float (.exact (74565 / 256000))))) = true := by decide +kernel
/-- V-ACQ-1: `F F F T` and `F F F F` with timeout 3. -/
theorem test_waitReady : next (exec (.waitReady 3) (scripted [] [.line false, .line false, .line false, .line true]))
    (fun t => ended .none t && decide (t.elapsed = 3 ∧ t.env.history.length = 7 ∧ frames t = [])) = true := by decide
theorem test_waitReady_timeout : next (exec (.waitReady 3) (scripted [] [.line false]))
    (fun t => failed .readyTimeout t && decide (t.elapsed = 3 ∧ t.env.history.length = 7)) = true := by decide
/-- V-ACQ-2. -/
theorem test_rdAxisRaw : next (exec (.rdAxisRaw 1) (scripted [responds [0x5A, 0x80, 0x00, 0x02]] []))
    (fun t => ended (.int (-524288)) t && decide (frames t = [[0x17, 0x00, 0x00, 0x00]])) = true := by decide
theorem test_rdAxisRaw_selector : next (exec (.rdAxisRaw 3) State.reset) (failed .invalidArgument) = true := by decide

/-- The three responses of the example of R194. -/
def sample : List Cue :=
  [responds [0, 0x12, 0x34, 0x50], responds [0, 0xAB, 0xCD, 0xE0], responds [0, 0x01, 0x00, 0x00]]

/-- V-ACQ-3. -/
theorem test_rdAxisTriplet : next (exec .rdAxisTriplet (scripted sample [.line true]))
    (fun t => ended (.axes ⟨74565, -344866, 4096⟩) t && decide (frames t =
      [[0x11, 0x00, 0x00, 0x00], [0x17, 0x00, 0x00, 0x00], [0x1D, 0x00, 0x00, 0x00]])) = true := by decide
theorem test_rdAxisTriplet_timeout : next (exec .rdAxisTriplet (scripted sample [.line false]))
    (fun t => failed .readyTimeout t && decide (frames t = [])) = true := by decide
/-- V-CTL-3. -/
theorem test_rdTripletRaw : next (exec .rdTripletRaw (scripted sample [.line true]))
    (ended (.axes ⟨74565, -344866, 4096⟩)) = true := by decide
/-- No pin (R190, R237): one sleep, the warning, the same result. -/
theorem test_rdTripletRaw_no_pin :
    next (exec .rdTripletRaw { scripted sample [] with cfg := { defaultConfig with drdyPin := none } })
      (fun t => ended (.axes ⟨74565, -344866, 4096⟩) t && t.warn && decide (t.env.history.head? = some (.sleep 3))) = true := by
  decide
/-- S7, reading (a): 0.29126953125, -1.3471328125, 0.016. -/
theorem test_rdTripletG : next (exec .rdTripletG (scaled (scripted sample [.line true])))
    (ended (.axesG ⟨.binary64 0x3FD2A428F5C28F5C, .binary64 0xBFF58DDB22D0E560, .binary64 0x3F90624DD2F1A9FC⟩)) = true := by
  decide +kernel
theorem test_rdTripletG_undefined : next (exec .rdTripletG (scripted sample [.line true]))
    (fun t => failed .scaleUndefined t && decide (t.env.history = [])) = true := by decide

/-- The entries of V-ACQ-4. -/
def px : Payload := ⟨0x12, 0x34, 0x50⟩
def py : Payload := ⟨0xAB, 0xCD, 0xE0⟩
def pz : Payload := ⟨0x01, 0x00, 0x00⟩

/-- V-ACQ-4, the last row but one: the Z slot finds the FIFO empty. -/
theorem test_drainFifo : next (exec .drainFifo (withFifo [px, py]))
    (fun t => ended (.triplets [⟨px, py, ⟨0, 0, 2⟩⟩]) t && decide ((frames t).length = 4 ∧ t.slot = .x)) = true := by decide
/-- V-ACQ-4: the marker on the X slot is consumed and two entries stay. -/
theorem test_drainFifo_marker : next (exec .drainFifo (withFifo [⟨0x12, 0x34, 0x52⟩, py, pz]))
    (fun t => ended (.triplets []) t && decide (t.env.device.map RefDevice.fifo = some [py, pz])) = true := by decide
/-- V-ACQ-5: `n = 1` with two triplets: seven reads, the first returned, the second lost. -/
theorem test_acqN : next (exec (.acqN 1) (withFifo [px, py, pz, pz, py, px]))
    (fun t => ended (.triplets [⟨px, py, pz⟩]) t && decide ((frames t).length = 7 ∧ t.acc.length = 2)) = true := by decide
/-- V-ACQ-5: `n = 2` with one triplet never returns: the operation is still in progress when the fuel is used up. -/
theorem test_acqN_stuck : next (exec (.acqN 2) (withFifo [px, py, pz]))
    (fun t => decide (t.op ≠ none ∧ t.fsm = .draining ∧ t.acc.length = 1)) = true := by decide
/-- The example of R213. -/
theorem test_rdBurstRaw : next (exec (.rdBurstRaw 1) (withFifo [px, py, pz]))
    (ended (.axesList [⟨74565, -344866, 4096⟩])) = true := by decide
/-- The example of R214. -/
theorem test_rdBurstG : next (exec (.rdBurstG 1) (scaled (withFifo [px, py, pz])))
    (ended (.axesGList [⟨.binary64 0x3FD2A428F5C28F5C, .binary64 0xBFF58DDB22D0E560, .binary64 0x3F90624DD2F1A9FC⟩])) = true := by
  decide +kernel
theorem test_rdBurstG_undefined : next (exec (.rdBurstG 0) State.reset) (failed .scaleUndefined) = true := by decide
/-- V-CTL-1, the row 0xFC. -/
theorem test_status : next (exec .status (scripted [responds [0x00, 0xFC]] []))
    (ended (.status ⟨false, false, true⟩)) = true := by decide
/-- V-CTL-2. -/
theorem test_identify : next (exec .identify State.reset)
    (fun t => ended (.ids ⟨0xAD, 0x1D, 0xED⟩) t && decide (frames t = [[0x01, 0x00], [0x03, 0x00], [0x05, 0x00]])) = true := by
  decide
/-- Frames run as the accesses they are the frames of (log entry 9). -/
theorem test_read_frames : next (exec .rd1Range State.reset) (ended (.bytes [0x81])) = true ∧
    next (exec .rd3FifoData (withFifo [px])) (ended (.bytes [0x12, 0x34, 0x50])) = true := by decide
theorem test_write_frames : next (exec (.wrRange 0x82) State.reset)
    (fun t => ended .none t && decide (frames t = [[0x58, 0x82]] ∧ t.rangeSel = none)) = true := by decide

/-! ### The step -/

theorem test_step_runs_a_word : next (step (State.reset.withFetchWord 8 0x45)) (ended (.ids ⟨0xAD, 0x1D, 0xED⟩)) = true := by
  decide
theorem test_step_waits : next (step State.reset) (fun t => decide (t = State.reset)) = true := by decide
theorem test_step_reset : next (step { scaled State.reset with resetIn := true })
    (fun t => decide (t.scale = none ∧ t.rangeSel = none ∧ t.resetIn = false)) = true := by decide +kernel
/-- A step of fuel 2 leaves a `stop` in mid-sequence; the next step ends it. -/
theorem test_step_goes_on : next (exec .stop { State.reset with fuel := 2 })
    (fun t => t.busy && next (step t) (ended .none)) = true := by decide

/-! ### Witnesses: each statement with hypotheses has a state and operands that meet them -/

/-- A drain in progress, in the middle of a triplet. -/
def draining : State :=
  { State.reset with slot := .y, fsm := .draining, op := some ⟨.drainFifo, [.fifoZ, .fifoX], .drained, [], [], []⟩ }

theorem draining_inv : draining.Inv where
  idle := by decide
  fits := by
    intro r h
    cases h
    exact ⟨by decide, by decide, by decide, by decide⟩
  slot := .inr ⟨_, rfl, by decide⟩
  scale := rfl
  range := by intro d h; cases h
  odr := by intro d h; cases h
  hpf := by intro d h; cases h
  device := by intro d h; cases h; decide

/-- A `set_range` in progress, its commit still to do. -/
def committing : State :=
  { State.reset with fsm := .sequencing, op := some ⟨.setRange ⟨4096, 3⟩, [.commitRange ⟨4096, 3⟩], .none, [], [], []⟩ }

theorem committing_inv : committing.Inv where
  idle := by decide
  fits := by
    intro r h
    cases h
    exact ⟨by decide, by decide, by decide, by decide⟩
  slot := .inl rfl
  scale := rfl
  range := by intro d h; cases h
  odr := by intro d h; cases h
  hpf := by intro d h; cases h
  device := by intro d h; cases h; decide

/-- The reset state with a request presented. -/
def presenting (r : Request) : State := { State.reset with port := [r] }

theorem presenting_inv (r : Request) : (presenting r).Inv where
  idle := ⟨fun _ => rfl, fun _ => rfl⟩
  fits := by intro x h; cases h
  slot := .inl rfl
  scale := rfl
  range := by intro d h; cases h
  odr := by intro d h; cases h
  hpf := by intro d h; cases h
  device := by intro d h; cases h; exact ⟨rfl, Nat.zero_le _⟩

/-- The outcome is a next state. -/
theorem next_of {o : Host.Outcome State Fault Refusal} {p : State → Bool} (h : next o p = true) :
    ∃ t, o = .next t ∧ p t = true := by
  cases o with
  | next t => exact ⟨t, rfl, h⟩
  | fault _ => cases h
  | refused _ => cases h

theorem witness_EncodeThenDecode : ∃ i, Instr.wellFormed .exact i = true ∧ i = .toG 0x7FFFF (.exact (1 / 3)) := ⟨_, by decide, rfl⟩
theorem witness_DecodedIsWellFormed : ∃ n r i, decode n r = .ok i := ⟨.other 7, ⟨.wire, [0x11, 0xFF]⟩, .frameRd 0x08 1, by decide⟩
theorem witness_FramesReadBack :
    parseFrame [0x11, 0xFF] = .read 0x08 1 ∧ parseFrame [0x5A, 0x01] = .write 0x2D 0x01 ∧ parseFrame [0x11] = .invalid := by
  decide
theorem witness_StepRunsTheDecodedOperation : ∃ (s : State) (r : Request) (rest : List Request) (i : Instr),
    s.resetIn = false ∧ s.op = none ∧ s.fsm = .idle ∧ s.port = r :: rest ∧ decode s.cfg.numerics r = .ok i :=
  ⟨presenting ⟨.command, [0x45]⟩, _, [], .identify, rfl, rfl, rfl, rfl, by decide⟩
theorem witness_UnknownCodeIsRefused : ∃ (s : State) (code : Byte) (operands : List Byte) (rest : List Request),
    s.resetIn = false ∧ s.op = none ∧ s.fsm = .idle ∧ s.port = ⟨.command, code :: operands⟩ :: rest ∧
    code.toNat ∉ [0x01, 0x02, 0x03, 0x04, 0x05, 0x10, 0x11, 0x12, 0x13, 0x14, 0x20, 0x21, 0x22, 0x30, 0x31, 0x32, 0x33,
      0x34, 0x40, 0x41, 0x42, 0x43, 0x44, 0x45] :=
  ⟨presenting ⟨.command, [0x46]⟩, 0x46, [], [], rfl, rfl, rfl, rfl, by decide⟩
theorem witness_BusyPortHasNoEffect : draining.fsm ≠ .idle ∧ draining.resetIn = false ∧ ∃ r, draining.op = some r :=
  ⟨by decide, rfl, _, rfl⟩
theorem witness_ResetEvent : ∃ s : State, s.resetIn = true := ⟨{ draining with resetIn := true }, rfl⟩
theorem witness_StepKeepsTheInvariant : ∃ s t : State, s.Inv ∧ step s = .next t ∧ t ≠ s := by
  obtain ⟨t, h, ht⟩ := next_of (o := step draining) (p := fun t => decide (t ≠ draining)) (by decide)
  exact ⟨draining, t, draining_inv, h, of_decide_eq_true ht⟩
theorem witness_StepStopsOnlyOnUnpresentableRequests : ∃ s : State, s.Inv ∧ step s = .refused .notPresentable :=
  ⟨presenting ⟨.wire, [0x11]⟩, presenting_inv _, rfl⟩
theorem witness_ConfigurationIsConstant : ∃ s t, step s = .next t := ⟨State.reset, State.reset, rfl⟩
theorem witness_OnlyConfigurationChangesTheRecord_range : ∃ s t : State,
    s.Inv ∧ step s = .next t ∧ s.resetIn = false ∧ t.rangeSel ≠ s.rangeSel := by
  obtain ⟨t, h, ht⟩ := next_of (o := step committing) (p := fun t => decide (t.rangeSel ≠ committing.rangeSel)) (by decide +kernel)
  exact ⟨committing, t, committing_inv, h, rfl, of_decide_eq_true ht⟩
theorem witness_OnlyConfigurationChangesTheRecord_filter : ∃ s t : State,
    s.Inv ∧ step s = .next t ∧ s.resetIn = false ∧ t.odrSel ≠ s.odrSel := by
  let s := presenting (encode (.setFilter ⟨125, 0⟩ 0))
  obtain ⟨t, h, ht⟩ := next_of (o := step s) (p := fun t => decide (t.odrSel ≠ s.odrSel)) (by decide +kernel)
  exact ⟨s, t, presenting_inv _, h, rfl, of_decide_eq_true ht⟩
theorem witness_FailedCallIsTheLast : ∃ (i : Instr) (s t : State), s.fsm = .idle ∧ exec i s = .next t ∧
    t.op = none ∧ t.err = .transportError := by
  obtain ⟨t, h, ht⟩ := next_of (o := exec .stop (scripted [.device, .deliveredButFails 7] []))
    (p := fun t => decide (t.op = none ∧ t.err = .transportError)) (by decide)
  exact ⟨_, _, t, rfl, h, of_decide_eq_true ht⟩
theorem witness_CuttingAnOperationChangesNothing : ∃ (s u : State), s.fsm = .idle ∧ s.resetIn = false ∧
    exec .stop (s.withFuel 2) = .next u ∧ u.op ≠ none := by
  obtain ⟨u, h, hu⟩ := next_of (o := exec .stop (State.reset.withFuel 2)) (p := fun t => decide (t.op ≠ none)) (by decide)
  exact ⟨_, u, rfl, rfl, h, of_decide_eq_true hu⟩
/-- The core is idle after reset: the hypothesis of `CodecFunctionsResult`, `DecodeRaw20Result`, `SignExtendResult`,
`ToGResult`, `AcquireZero`. -/
theorem witness_idle : State.reset.fsm = .idle := rfl
/-- A positive finite scale factor (`ToGResult`), and one that makes `read_burst_g(0)` run (`AcquireZero`). -/
theorem witness_scale : (0x3ED0624DD2F1A9FC : F64).toNat < 0x7FF0000000000000 ∧ (scaled State.reset).scale = some (scaleOf .binary64 ⟨2048, 3⟩) ∧
    (scaled State.reset).fsm = .idle := by decide
theorem witness_RegisterAccessIsOneTransaction :
    (∃ b p, (State.reset.env.transfer defaultRegMap [0x01, 0x00]).2 = .respond (b :: p) ∧ p.length = 1) ∧
    ((scripted [.answer (.fail 7)] []).env.transfer defaultRegMap [0x01, 0x00]).2 = .fail 7 ∧
    ((scripted [responds []] []).env.transfer defaultRegMap [0x01, 0x00]).2 = .respond [] ∧
    (State.reset.env.transfer defaultRegMap [0x50, 0x00]).2 = .respond [0x00, 0x00] :=
  ⟨⟨0x00, [0xAD], by decide, rfl⟩, by decide, by decide, by decide⟩
theorem witness_RegisterReadResult : ∃ (a : Addr) (n : Nat) (s : State) (e : Env) (p : List Byte),
    s.fsm = .idle ∧ 2 ≤ s.fuel ∧ documented s.cfg.regmap a = true ∧ s.env.regRead s.cfg.regmap a n = (e, .ok p) :=
  ⟨0x2F, 1, State.reset, _, _, rfl, by decide, by decide, rfl⟩
theorem witness_RegisterWriteResult : ∃ (a : Addr) (v : Byte) (s : State) (e : Env),
    s.fsm = .idle ∧ 2 ≤ s.fuel ∧ documented s.cfg.regmap a = true ∧ s.env.regWrite s.cfg.regmap a v = (e, .ok ()) :=
  ⟨0x00, 0x55, State.reset, _, rfl, by decide, by decide, rfl⟩
theorem witness_ArgumentsAreCheckedFirst : documented State.reset.cfg.regmap 0x12 = false ∧
    documented State.reset.cfg.regmap 0x30 = false ∧ 3 ≤ (3 : Byte).toNat := by decide
theorem witness_ReadFrameResult : ∃ (s : State) (e : Env) (p : List Byte), s.fsm = .idle ∧ 2 ≤ s.fuel ∧
    s.env.regRead s.cfg.regmap 0x11 3 = (e, .ok p) := ⟨withFifo [px], _, _, rfl, by decide, rfl⟩
theorem witness_ReadFrameResult_generic : ∃ (s : State) (e : Env) (p : List Byte), s.fsm = .idle ∧ 2 ≤ s.fuel ∧
    s.env.regRead s.cfg.regmap 0x7F 2 = (e, .ok p) := ⟨State.reset, _, _, rfl, by decide, rfl⟩
theorem witness_WriteFrameResult : ∃ (s : State) (e : Env), s.fsm = .idle ∧ 2 ≤ s.fuel ∧
    s.env.regWrite s.cfg.regmap 0x28 0x6A = (e, .ok ()) := ⟨State.reset, _, rfl, by decide, rfl⟩
theorem witness_StopAndStartResult : ∃ (s : State) (e1 e2 e3 : Env) (p : Byte), s.fsm = .idle ∧ 3 ≤ s.fuel ∧
    s.env.regRead s.cfg.regmap s.cfg.regmap.powerCtl 1 = (e1, .ok [p]) ∧
    e1.regWrite s.cfg.regmap s.cfg.regmap.powerCtl (p ||| 0x01) = (e2, .ok ()) ∧
    e1.regWrite s.cfg.regmap s.cfg.regmap.powerCtl (p &&& 0xFE) = (e3, .ok ()) :=
  ⟨State.reset, _, _, _, _, rfl, by decide, rfl, rfl, rfl⟩
theorem witness_SetRangeResult : ∃ (s : State) (d : Decimal) (k : RangeRow) (e1 e2 e3 e4 e5 e6 : Env) (p o q : Byte),
    s.fsm = .idle ∧ 8 ≤ s.fuel ∧ lookupRange s.cfg.rangeTable d = some k ∧
    s.env.regRead s.cfg.regmap s.cfg.regmap.powerCtl 1 = (e1, .ok [p]) ∧
    e1.regWrite s.cfg.regmap s.cfg.regmap.powerCtl (p ||| 0x01) = (e2, .ok ()) ∧
    e2.regRead s.cfg.regmap s.cfg.regmap.range 1 = (e3, .ok [o]) ∧
    e3.regWrite s.cfg.regmap s.cfg.regmap.range ((o &&& 0xFC) ||| k.code.setWidth 8) = (e4, .ok ()) ∧
    e4.regRead s.cfg.regmap s.cfg.regmap.powerCtl 1 = (e5, .ok [q]) ∧
    e5.regWrite s.cfg.regmap s.cfg.regmap.powerCtl (q &&& 0xFE) = (e6, .ok ()) :=
  ⟨State.reset, ⟨40960, 4⟩, ⟨⟨4096, 3⟩, 0b10⟩, _, _, _, _, _, _, _, _, _, rfl, by decide, by decide, rfl, rfl, rfl, rfl, rfl, rfl⟩
theorem witness_SetFilterResult : ∃ (s : State) (odr : Decimal) (h : Int) (row : OdrRow) (hrow : HpfRow)
    (e1 e2 e3 e4 e5 : Env) (p q : Byte),
    s.fsm = .idle ∧ 7 ≤ s.fuel ∧ lookupOdr s.cfg.odrTable odr = some row ∧ lookupHpf s.cfg.hpfTable h = some hrow ∧
    s.env.regRead s.cfg.regmap s.cfg.regmap.powerCtl 1 = (e1, .ok [p]) ∧
    e1.regWrite s.cfg.regmap s.cfg.regmap.powerCtl (p ||| 0x01) = (e2, .ok ()) ∧
    e2.regWrite s.cfg.regmap s.cfg.regmap.filter (BitVec.ofNat 8 (16 * hrow.code.toNat + row.code.toNat)) = (e3, .ok ()) ∧
    e3.regRead s.cfg.regmap s.cfg.regmap.powerCtl 1 = (e4, .ok [q]) ∧
    e4.regWrite s.cfg.regmap s.cfg.regmap.powerCtl (q &&& 0xFE) = (e5, .ok ()) :=
  ⟨State.reset, ⟨3906, 3⟩, 6, ⟨⟨3906, 3⟩, 0b1010⟩, ⟨6, 6⟩, _, _, _, _, _, _, _, rfl, by decide, by decide, by decide, rfl,
    rfl, rfl, rfl, rfl⟩
theorem witness_ConfigureResult : ∃ (s : State) (d odr : Decimal) (h : Int) (k : RangeRow) (row : OdrRow) (hrow : HpfRow)
    (e1 e2 e3 e4 e5 e6 e7 e8 e9 e10 e11 : Env) (p o q p' q' : Byte),
    s.fsm = .idle ∧ 14 ≤ s.fuel ∧ lookupRange s.cfg.rangeTable d = some k ∧ lookupOdr s.cfg.odrTable odr = some row ∧
    lookupHpf s.cfg.hpfTable h = some hrow ∧
    s.env.regRead s.cfg.regmap s.cfg.regmap.powerCtl 1 = (e1, .ok [p]) ∧
    e1.regWrite s.cfg.regmap s.cfg.regmap.powerCtl (p ||| 0x01) = (e2, .ok ()) ∧
    e2.regRead s.cfg.regmap s.cfg.regmap.range 1 = (e3, .ok [o]) ∧
    e3.regWrite s.cfg.regmap s.cfg.regmap.range ((o &&& 0xFC) ||| k.code.setWidth 8) = (e4, .ok ()) ∧
    e4.regRead s.cfg.regmap s.cfg.regmap.powerCtl 1 = (e5, .ok [q]) ∧
    e5.regWrite s.cfg.regmap s.cfg.regmap.powerCtl (q &&& 0xFE) = (e6, .ok ()) ∧
    e6.regRead s.cfg.regmap s.cfg.regmap.powerCtl 1 = (e7, .ok [p']) ∧
    e7.regWrite s.cfg.regmap s.cfg.regmap.powerCtl (p' ||| 0x01) = (e8, .ok ()) ∧
    e8.regWrite s.cfg.regmap s.cfg.regmap.filter (BitVec.ofNat 8 (16 * hrow.code.toNat + row.code.toNat)) = (e9, .ok ()) ∧
    e9.regRead s.cfg.regmap s.cfg.regmap.powerCtl 1 = (e10, .ok [q']) ∧
    e10.regWrite s.cfg.regmap s.cfg.regmap.powerCtl (q' &&& 0xFE) = (e11, .ok ()) :=
  ⟨State.reset, ⟨2048, 3⟩, ⟨125, 0⟩, 0, ⟨⟨2048, 3⟩, 0b01⟩, ⟨⟨125, 0⟩, 0b0101⟩, ⟨0, 0⟩, _, _, _, _, _, _, _, _, _, _, _, _, _, _, _, _, rfl,
    by decide, by decide, by decide, by decide, rfl, rfl, rfl, rfl, rfl, rfl, rfl, rfl, rfl, rfl, rfl⟩
theorem witness_LookupFailuresTouchNothing :
    (∀ row ∈ State.reset.cfg.rangeTable, row.key.same ⟨3, 0⟩ = false) ∧
    (∃ row ∈ State.reset.cfg.rangeTable, row.key.same ⟨8192, 3⟩ = true) ∧
    (∀ row ∈ State.reset.cfg.odrTable, row.key.same ⟨78125, 4⟩ = false) ∧
    (∃ row ∈ State.reset.cfg.odrTable, row.key.same ⟨1250, 1⟩ = true) ∧ ∀ row ∈ State.reset.cfg.hpfTable, row.key ≠ 7 :=
  by decide
theorem witness_FailureKeepsTheRecord : ∃ (i : Instr) (s t : State), s.fsm = .idle ∧ exec i s = .next t ∧ t.op = none ∧
    t.err ≠ .ok ∧ s.rangeSel = some ⟨2048, 3⟩ := by
  obtain ⟨t, h, ht⟩ := next_of
    (o := exec (.setRange ⟨8192, 3⟩) (scaled (scripted [.device, .device, .device, .device, .device, .deliveredButFails 7] [])))
    (p := fun t => decide (t.op = none ∧ t.err ≠ .ok)) (by decide +kernel)
  have ht := of_decide_eq_true ht
  exact ⟨_, _, t, rfl, h, ht.1, ht.2, rfl⟩
theorem witness_ConfigurationIsIdempotent : ∃ (i : Instr) (s t : State) (d0 : RefDevice), i.setsFilter = true ∧ s.fsm = .idle ∧
    s.cfg.regmap = defaultRegMap ∧ s.env.cues = [] ∧ s.env.device = some d0 ∧ exec i s = .next t ∧ t.op = none ∧ t.err = .ok := by
  obtain ⟨t, h, ht⟩ := next_of (o := exec (.configure ⟨4096, 3⟩ ⟨500, 0⟩ 2) State.reset)
    (p := fun t => decide (t.op = none ∧ t.err = .ok)) (by decide +kernel)
  have ht := of_decide_eq_true ht
  exact ⟨_, _, t, RefDevice.initial, rfl, rfl, rfl, rfl, rfl, h, ht.1, ht.2⟩
theorem witness_ConfigurationIsIdempotent_range : ∃ (s t : State), s.fsm = .idle ∧ s.cfg.regmap = defaultRegMap ∧
    s.env.cues = [] ∧ s.env.device = some RefDevice.initial ∧ exec (.setRange ⟨4096, 3⟩) s = .next t ∧ t.op = none ∧ t.err = .ok := by
  obtain ⟨t, h, ht⟩ := next_of (o := exec (.setRange ⟨4096, 3⟩) State.reset)
    (p := fun t => decide (t.op = none ∧ t.err = .ok)) (by decide +kernel)
  have ht := of_decide_eq_true ht
  exact ⟨_, t, rfl, rfl, rfl, rfl, h, ht.1, ht.2⟩
theorem witness_SignExtensionIsABijection : (-0x80000 : Int) ≤ -0x80000 ∧ (-0x80000 : Int) ≤ 0x7FFFF := by decide
theorem witness_WaitReadyResult_no_pin : ∃ s : State, s.fsm = .idle ∧ s.cfg.drdyPin = none ∧ 2 ≤ s.fuel :=
  ⟨{ State.reset with cfg := { defaultConfig with drdyPin := none } }, rfl, rfl, by decide⟩
/-- High at the sample after the last sleep (`F F F T` with timeout 3), the last sample there is. -/
theorem witness_WaitReadyResult_ready : ∃ (s : State) (e1 e2 : Env), s.fsm = .idle ∧ s.cfg.drdyPin = some 0 ∧
    0 < s.cfg.pollInterval ∧ 3 ≤ (3 + s.cfg.pollInterval - 1) / s.cfg.pollInterval ∧ 2 * 3 + 3 ≤ s.fuel ∧
    s.env.lowFor 0 s.cfg.pollInterval 3 = some e1 ∧ e1.digitalRead 0 = (e2, .level true) :=
  ⟨scripted [] [.line false, .line false, .line false, .line true], _, _, rfl, rfl, by decide, by decide, by decide, rfl, rfl⟩
theorem witness_WaitReadyResult_timeout : ∃ (s : State) (e1 e2 : Env), s.fsm = .idle ∧ s.cfg.drdyPin = some 0 ∧
    0 < s.cfg.pollInterval ∧ 3 = (3 + s.cfg.pollInterval - 1) / s.cfg.pollInterval ∧ 2 * 3 + 2 ≤ s.fuel ∧
    s.env.lowFor 0 s.cfg.pollInterval 3 = some e1 ∧ e1.digitalRead 0 = (e2, .level false) :=
  ⟨State.reset, _, _, rfl, rfl, by decide, by decide, by decide, rfl, rfl⟩
theorem witness_WaitReadyResult_fails : ∃ (s : State) (e1 e2 : Env), s.fsm = .idle ∧ s.cfg.drdyPin = some 0 ∧
    0 < s.cfg.pollInterval ∧ 1 ≤ (3 + s.cfg.pollInterval - 1) / s.cfg.pollInterval ∧ 2 * 1 + 2 ≤ s.fuel ∧
    s.env.lowFor 0 s.cfg.pollInterval 1 = some e1 ∧ e1.digitalRead 0 = (e2, .fail 7) :=
  ⟨scripted [] [.line false, .fails 7], _, _, rfl, rfl, by decide, by decide, by decide, rfl, rfl⟩
/-- The third read fails, behind a wait without a pin; a sample fails. -/
theorem witness_FailureEndsTripletReads : ∃ (s : State) (e1 e2 e3 : Env) (px py : List Byte) (x : Raise), s.scale ≠ none ∧
    s.fsm = .idle ∧ s.cfg.drdyPin = none ∧ 6 ≤ s.fuel ∧
    (s.env.sleep s.cfg.readyTimeout).regRead s.cfg.regmap s.cfg.regmap.xdata3 3 = (e1, .ok px) ∧
    e1.regRead s.cfg.regmap s.cfg.regmap.ydata3 3 = (e2, .ok py) ∧
    e2.regRead s.cfg.regmap s.cfg.regmap.zdata3 3 = (e3, .error x) :=
  ⟨{ scaled (scripted [.device, .device, .answer (.fail 7)] []) with cfg := { defaultConfig with drdyPin := none } },
    _, _, _, _, _, _, by simp [scaled], rfl, rfl, by decide, rfl, rfl, rfl⟩
theorem witness_FailureEndsTripletReads_first : ∃ (s : State) (e0 e1 e : Env) (x : Raise), s.fsm = .idle ∧
    s.cfg.drdyPin = some 0 ∧ 0 < s.cfg.pollInterval ∧
    3 ≤ (s.cfg.readyTimeout + s.cfg.pollInterval - 1) / s.cfg.pollInterval ∧ 2 * 3 + 7 ≤ s.fuel ∧
    s.env.lowFor 0 s.cfg.pollInterval 3 = some e ∧ e.digitalRead 0 = (e0, .level true) ∧
    e0.regRead s.cfg.regmap s.cfg.regmap.xdata3 3 = (e1, .error x) :=
  ⟨scripted [responds [0, 0]] [.line false, .line false, .line false, .line true], _, _, _, _, rfl, rfl, by decide, by decide,
    by decide, rfl, rfl, rfl⟩
theorem witness_FailureEndsTripletReads_second : ∃ (s : State) (e0 e1 e2 : Env) (px : List Byte) (x : Raise), s.fsm = .idle ∧
    s.cfg.drdyPin = none ∧ e0 = s.env.sleep s.cfg.readyTimeout ∧
    e0.regRead s.cfg.regmap s.cfg.regmap.xdata3 3 = (e1, .ok px) ∧
    e1.regRead s.cfg.regmap s.cfg.regmap.ydata3 3 = (e2, .error x) :=
  ⟨{ scripted [.device, .deliveredButFails 7] [] with cfg := { defaultConfig with drdyPin := none } }, _, _, _, _, _, rfl, rfl,
    rfl, rfl, rfl⟩
theorem witness_FailureEndsTripletReads_sample : ∃ (s : State) (e1 e2 : Env), s.fsm = .idle ∧ s.cfg.drdyPin = some 0 ∧
    0 < s.cfg.pollInterval ∧ 0 ≤ (s.cfg.readyTimeout + s.cfg.pollInterval - 1) / s.cfg.pollInterval ∧ 2 * 0 + 2 ≤ s.fuel ∧
    s.env.lowFor 0 s.cfg.pollInterval 0 = some e1 ∧ e1.digitalRead 0 = (e2, .fail 7) :=
  ⟨scripted [] [.fails 7], _, _, rfl, rfl, by decide, by decide, by decide, rfl, rfl⟩
theorem witness_ReadAxisResult : ∃ (s : State) (e : Env) (hi mid lo : Byte), s.fsm = .idle ∧ 2 ≤ s.fuel ∧
    s.env.regRead s.cfg.regmap s.cfg.regmap.zdata3 3 = (e, .ok [hi, mid, lo]) :=
  ⟨State.reset, _, _, _, _, rfl, by decide, rfl⟩
theorem witness_TripletReadsResult_pin : ∃ (s : State) (e e0 e1 e2 e3 : Env) (x2 x1 x0 y2 y1 y0 z2 z1 z0 : Byte),
    s.fsm = .idle ∧ s.cfg.drdyPin = some 0 ∧ 0 < s.cfg.pollInterval ∧
    1 ≤ (s.cfg.readyTimeout + s.cfg.pollInterval - 1) / s.cfg.pollInterval ∧ 2 * 1 + 7 ≤ s.fuel ∧
    s.env.lowFor 0 s.cfg.pollInterval 1 = some e ∧ e.digitalRead 0 = (e0, .level true) ∧
    e0.regRead s.cfg.regmap s.cfg.regmap.xdata3 3 = (e1, .ok [x2, x1, x0]) ∧
    e1.regRead s.cfg.regmap s.cfg.regmap.ydata3 3 = (e2, .ok [y2, y1, y0]) ∧
    e2.regRead s.cfg.regmap s.cfg.regmap.zdata3 3 = (e3, .ok [z2, z1, z0]) ∧ ∃ f, s.scale = some f :=
  ⟨scaled (scripted sample [.line false, .line true]), _, _, _, _, _, _, _, _, _, _, _, _, _, _, rfl, rfl, by decide, by decide,
    by decide, rfl, rfl, rfl, rfl, rfl, _, rfl⟩
theorem witness_TripletReadsResult_no_pin : ∃ (s : State) (e1 e2 e3 : Env) (x2 x1 x0 y2 y1 y0 z2 z1 z0 : Byte),
    s.fsm = .idle ∧ s.cfg.drdyPin = none ∧ 6 ≤ s.fuel ∧
    (s.env.sleep s.cfg.readyTimeout).regRead s.cfg.regmap s.cfg.regmap.xdata3 3 = (e1, .ok [x2, x1, x0]) ∧
    e1.regRead s.cfg.regmap s.cfg.regmap.ydata3 3 = (e2, .ok [y2, y1, y0]) ∧
    e2.regRead s.cfg.regmap s.cfg.regmap.zdata3 3 = (e3, .ok [z2, z1, z0]) :=
  ⟨{ scripted sample [] with cfg := { defaultConfig with drdyPin := none } }, _, _, _, _, _, _, _, _, _, _, _, _, rfl, rfl,
    by decide, rfl, rfl, rfl⟩
theorem witness_TimeoutEndsTripletReads : ∃ (s : State) (e1 e2 : Env), s.scale ≠ none ∧ s.fsm = .idle ∧
    s.cfg.drdyPin = some 0 ∧ 0 < s.cfg.pollInterval ∧
    3 = (s.cfg.readyTimeout + s.cfg.pollInterval - 1) / s.cfg.pollInterval ∧ 2 * 3 + 2 ≤ s.fuel ∧
    s.env.lowFor 0 s.cfg.pollInterval 3 = some e1 ∧ e1.digitalRead 0 = (e2, .level false) :=
  ⟨scaled State.reset, _, _, by simp [scaled], rfl, rfl, by decide, by decide, by decide, rfl, rfl⟩
theorem witness_DrainResult : ∃ (s : State) (e : Env) (l : List FifoTriplet) (x : Payload),
    s.fsm = .idle ∧ 3 * 1 + 2 ≤ s.fuel ∧ s.env.drain s.cfg.regmap 1 = some (e, l, x) ∧ l = [⟨px, py, pz⟩] :=
  ⟨withFifo [px, py, pz], _, _, _, rfl, by decide, rfl, rfl⟩
theorem witness_DrainResult_empty : ∃ (s : State) (e : Env) (l : List FifoTriplet) (x : Payload),
    s.fsm = .idle ∧ 3 * 0 + 2 ≤ s.fuel ∧ s.env.drain s.cfg.regmap 0 = some (e, l, x) :=
  ⟨State.reset, _, _, _, rfl, by decide, rfl⟩
theorem witness_DrainEmptiesTheReferenceFifo : ∃ (s : State) (d : RefDevice) (l : List FifoTriplet),
    s.fsm = .idle ∧ 3 * l.length + 2 ≤ s.fuel ∧ s.env.device = some d ∧ s.env.cues = [] ∧
    d.fifo = l.flatMap (fun t => [t.px, t.py, t.pz]) ∧ l ≠ [] ∧ (∀ t ∈ l, t.px.low.getLsbD 1 = false) :=
  ⟨withFifo [px, py, pz], _, [⟨px, py, pz⟩], rfl, by decide, rfl, rfl, rfl, by decide, by decide⟩
/-- Two drains: an empty one, then one that overshoots. -/
theorem witness_AcquireResult : ∃ (s : State) (e : Env) (l : List FifoTriplet) (x : Payload), s.fsm = .idle ∧
    0 < 1 ∧ 1 ≤ [0, 2].sum ∧ [0, 2].dropLast.sum < 1 ∧ ([0, 2].map fun k => 3 * k + 3).sum + 2 ≤ s.fuel ∧
    Env.drains s.cfg.regmap [0, 2] s.xl s.env = some (e, l, x) ∧ ∃ f, s.scale = some f :=
  ⟨scaled { State.reset with env := { (withFifo [px, py, pz, pz, py, px]).env with cues := [responds [0, 0, 0, 2]] } }, _, _, _,
    rfl, by decide, by decide, by decide, by decide, rfl, _, rfl⟩
theorem witness_ScaledReadsAreCompositions_triplet : ∃ (s t : State) (f : Number) (a : Axes), s.fsm = .idle ∧ s.scale = some f ∧
    exec .rdAxisTriplet s = .next t ∧ t.op = none ∧ t.res = .axes a ∧ t.err = .ok := by
  obtain ⟨t, h, ht⟩ := next_of (o := exec .rdAxisTriplet (scaled (scripted sample [.line true])))
    (p := fun t => decide (t.op = none ∧ t.res = .axes ⟨74565, -344866, 4096⟩ ∧ t.err = .ok)) (by decide +kernel)
  have ht := of_decide_eq_true ht
  exact ⟨_, t, _, _, rfl, rfl, h, ht.1, ht.2.1, ht.2.2⟩
theorem witness_ScaledReadsAreCompositions_burst : ∃ (s t : State) (f : Number) (n : Nat) (l : List FifoTriplet), s.fsm = .idle ∧
    s.scale = some f ∧ exec (.acqN n) s = .next t ∧ t.op = none ∧ t.res = .triplets l ∧ t.err = .ok := by
  obtain ⟨t, h, ht⟩ := next_of (o := exec (.acqN 1) (scaled (withFifo [px, py, pz])))
    (p := fun t => decide (t.op = none ∧ t.res = .triplets [⟨px, py, pz⟩] ∧ t.err = .ok)) (by decide +kernel)
  have ht := of_decide_eq_true ht
  exact ⟨_, t, _, _, _, rfl, rfl, h, ht.1, ht.2.1, ht.2.2⟩
theorem witness_ScaleUndefinedComesFirst : State.reset.fsm = .idle ∧ State.reset.scale = none := ⟨rfl, rfl⟩
theorem witness_StatusResult : ∃ (s : State) (e : Env) (b : Byte), s.fsm = .idle ∧ 2 ≤ s.fuel ∧
    s.env.regRead s.cfg.regmap s.cfg.regmap.status 1 = (e, .ok [b]) := ⟨State.reset, _, _, rfl, by decide, rfl⟩
theorem witness_IdentifyResult : ∃ (s : State) (e1 e2 e3 : Env) (a m p : Byte), s.fsm = .idle ∧ 4 ≤ s.fuel ∧
    s.env.regRead s.cfg.regmap s.cfg.regmap.devidAd 1 = (e1, .ok [a]) ∧
    e1.regRead s.cfg.regmap s.cfg.regmap.devidMst 1 = (e2, .ok [m]) ∧
    e2.regRead s.cfg.regmap s.cfg.regmap.partid 1 = (e3, .ok [p]) := ⟨State.reset, _, _, _, _, _, _, rfl, by decide, rfl, rfl, rfl⟩
theorem witness_OnlyStoredBytesChange : ∃ (s t : State) (d d' : RefDevice), exec (.regWr 0x29 0x20) s = .next t ∧
    s.env.device = some d ∧ t.env.device = some d' ∧ ∀ x ∈ (Instr.regWr 0x29 0x20).stores s.cfg.regmap, 0x2A ≠ x.toNat := by
  obtain ⟨t, h, ht⟩ := next_of (o := exec (.regWr 0x29 0x20) State.reset) (p := fun t => t.env.device.isSome) (by decide)
  obtain ⟨d', hd⟩ := Option.isSome_iff_exists.1 ht
  exact ⟨_, t, _, d', h, rfl, hd, by decide⟩
theorem witness_ReferenceDeviceAnswers : (0x2E : Addr) ≠ defaultRegMap.fifoData ∧
    (∃ d : RefDevice, ∃ e rest, d.fifo = e :: rest) ∧ RefDevice.initial.fifo = [] :=
  ⟨by decide, ⟨{ RefDevice.initial with fifo := [px] }, _, _, rfl⟩, rfl⟩
theorem witness_WriteThenReadReturnsTheValue : ∃ (s : State) (d : RefDevice), s.fsm = .idle ∧ 2 ≤ s.fuel ∧
    s.env.device = some d ∧ s.env.cues = [] ∧ writable s.cfg.regmap 0x2F = true ∧ writable s.cfg.regmap 0x1E = true ∧
    (0x2F : Addr).toNat ≤ 0x2F ∧ (0x2F : Addr) ≠ s.cfg.regmap.fifoData :=
  ⟨State.reset, _, rfl, by decide, rfl, rfl, by decide, by decide, by decide, by decide⟩
theorem witness_CodecFunctionsResult : State.reset.fsm = .idle := rfl
theorem witness_DecodeRaw20Result : State.reset.fsm = .idle := rfl
theorem witness_SignExtendResult : State.reset.fsm = .idle := rfl
theorem witness_ToGResult : State.reset.fsm = .idle ∧ State.reset.cfg.numerics = .binary64 ∧
    (0x3ED0624DD2F1A9FC : F64).toNat < 0x7FF0000000000000 := ⟨rfl, rfl, by decide⟩
theorem witness_ToGResult_exact : ∃ s : State, s.fsm = .idle ∧ s.cfg.numerics = .exact :=
  ⟨{ State.reset with cfg := { defaultConfig with numerics := .exact } }, rfl, rfl⟩
/-- Two finite factors, 1 and 2, and the numbers at the two sides of the overflow bound. -/
theorem witness_ArithmeticRoundsOnce : f64Value 0x3FF0000000000000 = some 1 ∧ f64Value 0x4000000000000000 = some 2 ∧
    |(2 : ℚ)| < 2 ^ 1024 - 2 ^ 970 ∧ (2 : ℚ) ^ 1024 - 2 ^ 970 ≤ |2 ^ 1024 - 2 ^ 970| := by
  refine ⟨by decide +kernel, by decide +kernel, ?_, le_abs_self _⟩
  have h : (2 : ℚ) ^ 1024 = 2 ^ 970 * 2 ^ 54 := by rw [← pow_add]
  have h1 : (1 : ℚ) ≤ 2 ^ 970 := one_le_pow₀ (by norm_num)
  rw [abs_of_pos (by norm_num), h]
  generalize (2 : ℚ) ^ 970 = y at h1
  linarith
theorem witness_AcquireZero : (scaled State.reset).fsm = .idle ∧ (scaled State.reset).scale = some (scaleOf .binary64 ⟨2048, 3⟩) := ⟨rfl, rfl⟩
theorem witness_CodecLaws : 1 ≤ 1 ∧ ([0x00, 0x05] : List Byte) ≠ [] := by decide
theorem witness_IntegerConversionIsExact : (-0x80000 : Int) ≤ -0x80000 ∧ (-0x80000 : Int) ≤ 0x7FFFF := by decide
theorem witness_ToGDoubles : (⟨⟨8192, 3⟩, 0b11⟩ : RangeRow) ∈ defaultRangeTable ∧ (-0x40000 : Int) ≤ 0x3FFFF ∧ (0x3FFFF : Int) ≤ 0x3FFFF := by decide
theorem witness_CallsAreOneTotalOrder : ∃ s t : State, step s = .next t ∧ s.resetIn = true :=
  ⟨{ draining with resetIn := true }, _, rfl, rfl⟩
theorem witness_FirstFailureEndsTheOperation : ∃ (s : State) (e : Env) (x : Raise), s.fsm = .idle ∧ 2 ≤ s.fuel ∧
    s.env.regRead s.cfg.regmap s.cfg.regmap.powerCtl 1 = (e, .error x) :=
  ⟨scripted [.answer (.fail 7)] [], _, _, rfl, by decide, rfl⟩
theorem witness_FirstFailureEndsTheOperation_fifo : ∃ (s : State) (e : Env) (x : Raise), s.fsm = .idle ∧ 2 ≤ s.fuel ∧
    s.env.regRead s.cfg.regmap s.cfg.regmap.fifoData 3 = (e, .error x) ∧ s.scale ≠ none :=
  ⟨scaled (scripted [responds [0]] []), _, _, rfl, by decide, rfl, by simp [scaled]⟩
theorem witness_FirstFailureEndsTheOperation_clauses : ∃ (s : State) (e : Env) (x : Raise), s.fsm = .idle ∧ 2 ≤ s.fuel ∧
    documented s.cfg.regmap 0x2F = true ∧ s.env.regRead s.cfg.regmap 0x2F 1 = (e, .error x) ∧
    lookupRange s.cfg.rangeTable ⟨2048, 3⟩ ≠ none ∧ lookupOdr s.cfg.odrTable ⟨125, 0⟩ ≠ none ∧
    lookupHpf s.cfg.hpfTable 6 ≠ none :=
  ⟨scripted [.answer (.fail 7)] [], _, _, rfl, by decide, by decide, rfl, by decide, by decide, by decide⟩
theorem witness_FirstFailureEndsTheOperation_axis : ∃ (s : State) (e : Env) (x : Raise), s.fsm = .idle ∧ 2 ≤ s.fuel ∧
    s.env.regRead s.cfg.regmap s.cfg.regmap.zdata3 3 = (e, .error x) :=
  ⟨scripted [.answer (.fail 7)] [], _, _, rfl, by decide, rfl⟩
theorem witness_FirstFailureEndsTheOperation_write : ∃ (s : State) (e : Env) (x : Raise), s.fsm = .idle ∧ 2 ≤ s.fuel ∧
    s.env.regWrite s.cfg.regmap 0x28 0x6A = (e, .error x) :=
  ⟨scripted [.deliveredButFails 7] [], _, _, rfl, by decide, rfl⟩

end Sys2Proof.Tests
end

section
/-! SUPPORT. What a step of an idle core finds on its command port, and what it does with it (R17, R246). -/

namespace Sys2Proof.Machine

/-- In `Idle` the `busy` output is low (R246). -/
theorem State.busy_eq_false_of_idle {s : State} (h : s.fsm = .idle) : s.busy = false := by
  simp [State.busy, h]

/-- With no reset, no operation in progress and `fsm` in `Idle`, a step finds the first request of the port, decoded, and
the core without that request. -/
theorem State.found_eq_request {s : State} {r : Request} {rest : List Request} {i : Instr}
    (hreset : s.resetIn = false) (hop : s.op = none) (hfsm : s.fsm = .idle) (hport : s.port = r :: rest)
    (hdecode : decode s.cfg.numerics r = .ok i) : s.found = .request i (s.withPort rest) := by
  have hbusy : s.busy = false := State.busy_eq_false_of_idle hfsm
  simp [State.found, hreset, hop, hbusy, hport, hdecode]

/-- A step that finds a decoded request runs it at the state it was found with. -/
theorem step_of_found_request {s t : State} {i : Instr} (h : s.found = .request i t) : step s = exec i t := by
  rw [step, h]

/-- Settles O5: of what a step can find, only the decoded request is left, and the step runs it. -/
theorem stepRunsTheDecodedOperation : Obligations.StepRunsTheDecodedOperation := by
  intro s r rest i hreset hop hfsm hport hdecode
  exact step_of_found_request (State.found_eq_request hreset hop hfsm hport hdecode)

end Sys2Proof.Machine
end

section
/-! SUPPORT. What one position of an operation can do to the part of the state the invariant of the machine speaks of
(R21 to R31, R81): the reference device, the record of the configuration, `fsm`, `SLOT`, `OP`. -/

namespace Sys2Proof.Machine

/-! ### The reference device under the collaborator calls (R81) -/

/-- The reference device, where attached, has its registers in canonical form and its FIFO within the depth (R81). -/
def Env.DeviceFits (c : Config) (e : Env) : Prop :=
  ∀ d, e.device = some d → Memory.wf c.regmap d.mem = true ∧ d.fifo.length ≤ c.fifoDepth

/-- A frame leaves the FIFO no longer than it was (R84). -/
theorem RefDevice.receive_fifo_length_le {m : RegMap} {d d' : RefDevice} {f : Frame} {resp : List Byte}
    (h : d.receive m f = some (d', resp)) : d'.fifo.length ≤ d.fifo.length := by
  rcases RefDevice.receive_fifo h with h | ⟨-, h⟩
  · exact h ▸ le_rfl
  · simp [h]

theorem Env.transfer_deviceFits {c : Config} {e : Env} (h : e.DeviceFits c) (f : Frame) :
    (e.transfer c.regmap f).1.DeviceFits c := by
  intro d' hd'
  obtain ⟨d, hd, rfl | ⟨resp, hr⟩⟩ := Env.transfer_device hd'
  · exact h _ hd
  · obtain ⟨hmem, hfifo⟩ := h d hd
    exact ⟨RefDevice.receive_wf hr hmem, (RefDevice.receive_fifo_length_le hr).trans hfifo⟩

theorem Env.regRead_deviceFits {c : Config} {e e' : Env} {a : Addr} {n : Nat} {x : Except Raise (List Byte)}
    (heq : e.regRead c.regmap a n = (e', x)) (h : e.DeviceFits c) : e'.DeviceFits c := by
  have he : e' = if n = 0 then e else (e.transfer c.regmap (readFrame a n)).1 := by
    rw [← Env.regRead_env, heq]
  split at he
  · exact he ▸ h
  · exact he ▸ Env.transfer_deviceFits h _

theorem Env.regWrite_deviceFits {c : Config} {e e' : Env} {a : Addr} {v : Byte} {x : Except Raise Unit}
    (heq : e.regWrite c.regmap a v = (e', x)) (h : e.DeviceFits c) : e'.DeviceFits c := by
  have he : e' = (e.transfer c.regmap (writeFrame a v)).1 := by rw [← Env.regWrite_env, heq]
  exact he ▸ Env.transfer_deviceFits h _

theorem Env.digitalRead_deviceFits {c : Config} {e e' : Env} {p : Pin} {x : ReadyAnswer}
    (heq : e.digitalRead p = (e', x)) (h : e.DeviceFits c) : e'.DeviceFits c := by
  have he : e' = (e.digitalRead p).1 := by rw [heq]
  subst he
  intro d' hd'
  obtain ⟨d, hd, hmem, hfifo, -⟩ := Env.digitalRead_device hd'
  rw [hmem, hfifo]
  exact h d hd

theorem Env.sleep_deviceFits {c : Config} {e : Env} (h : e.DeviceFits c) (t : Ticks) : (e.sleep t).DeviceFits c := h

/-! ### The record of the configuration (R21 to R25) -/

/-- `t` has the configuration and the record `RANGE_SEL`, `SCALE`, `ODR_SEL`, `HPF_SEL` of `s`. -/
structure State.SameRecord (s t : State) : Prop where
  cfg : t.cfg = s.cfg
  rangeSel : t.rangeSel = s.rangeSel
  scale : t.scale = s.scale
  odrSel : t.odrSel = s.odrSel
  hpfSel : t.hpfSel = s.hpfSel

/-- What the invariant says of the record (R21 to R24). -/
structure State.RecordInv (s : State) : Prop where
  scale : s.scale = s.rangeSel.map (scaleOf s.cfg.numerics)
  range : ∀ d, s.rangeSel = some d → isRangeKey s.cfg.rangeTable d = true
  odr : ∀ d, s.odrSel = some d → isOdrKey s.cfg.odrTable d = true
  hpf : ∀ h, s.hpfSel = some h → isHpfKey s.cfg.hpfTable h = true

theorem State.RecordInv.congr {s t : State} (h : s.RecordInv) (ht : s.SameRecord t) : t.RecordInv where
  scale := by rw [ht.scale, ht.rangeSel, ht.cfg]; exact h.scale
  range := by rw [ht.rangeSel, ht.cfg]; exact h.range
  odr := by rw [ht.odrSel, ht.cfg]; exact h.odr
  hpf := by rw [ht.hpfSel, ht.cfg]; exact h.hpf

theorem State.Inv.record {s : State} (h : s.Inv) : s.RecordInv := ⟨h.scale, h.range, h.odr, h.hpf⟩

/-- A record undefined throughout, as after reset (R47). -/
theorem State.recordInv_of_none {s : State} (hrange : s.rangeSel = none) (hscale : s.scale = none)
    (hodr : s.odrSel = none) (hhpf : s.hpfSel = none) : s.RecordInv := by
  constructor <;> simp [hrange, hscale, hodr, hhpf]

/-- What a position commits to the record (R156); every position but the two commits leaves it. -/
def Micro.commits : Micro → State → State
  | .commitRange k, s => s.commitRange k
  | .commitFilter odr hpf, s => s.commitFilter odr hpf
  | _, s => s

/-- A commit of keys of the tables keeps the record as the invariant has it (R156). -/
theorem State.RecordInv.commits {s : State} {m : Micro} (h : s.RecordInv) (hk : commitsKeys s.cfg m = true) :
    (m.commits s).RecordInv := by
  cases m
  case commitRange k =>
    refine ⟨rfl, fun d hd => ?_, h.odr, h.hpf⟩
    cases hd
    exact hk
  case commitFilter odr hpf =>
    obtain ⟨hodr, hhpf⟩ := Bool.and_eq_true_iff.mp hk
    refine ⟨h.scale, h.range, fun d hd => ?_, fun k hd => ?_⟩
    · cases hd
      exact hodr
    · cases hd
      exact hhpf
  all_goals exact h

@[simp] theorem Micro.commits_cfg (m : Micro) (s : State) : (m.commits s).cfg = s.cfg := by cases m <;> rfl

/-! ### One position of an operation -/

/-- The sequencer state behind a position (R31, R194). -/
def Micro.fsmAfter : Micro → Fsm → Fsm
  | .enterReading, _ => .reading
  | _, f => f

/-- `SLOT` behind a position (R27, R198). -/
def Micro.slotAfter : Micro → Axis → Axis
  | .fifoX, _ => .x
  | .fifoY, _ => .y
  | .fifoZ, _ => .z
  | _, a => a

/-- The positions that a position may put before what follows it: the loops of R202. -/
def Micro.successors : Micro → List (List Micro)
  | .waitBegin t => [[], [.poll t]]
  | .poll t => [[], [.pollSleep t]]
  | .pollSleep t => [[.poll t]]
  | .fifoX => [[], [.fifoY, .fifoZ, .fifoX]]
  | .acqTest n => [[], [.fifoX, .accumulate, .acqTest n]]
  | _ => [[]]

/-- `u` is `s` behind the position `m`, but for registers that the invariant does not speak of, and for `OP`. -/
structure Micro.Passed (m : Micro) (s u : State) : Prop where
  record : (m.commits s).SameRecord u
  fsm : u.fsm = m.fsmAfter s.fsm
  slot : u.slot = m.slotAfter s.slot
  device : s.env.DeviceFits s.cfg → u.env.DeviceFits s.cfg

/-- What the position `m` can leave of the operation `r`: it goes on, behind `m`, or ends with an error (R240). -/
inductive Micro.Leaves (m : Micro) (r : Running) (s : State) : State → Prop
  | goesOn {u : State} {r' : Running} {l : List Micro} (passed : m.Passed s u) (instr : r'.instr = r.instr)
      (mem : l ∈ m.successors) (todo : r'.todo = l ++ r.todo) : Leaves m r s (u.goOn r')
  | ends {u : State} (passed : m.Passed s u) (code : ErrCode) (info : ErrInfo) : Leaves m r s (u.raise code info)

theorem State.SameRecord.trans {s t u : State} (h : s.SameRecord t) (h' : t.SameRecord u) : s.SameRecord u :=
  ⟨h'.cfg.trans h.cfg, h'.rangeSel.trans h.rangeSel, h'.scale.trans h.scale, h'.odrSel.trans h.odrSel,
    h'.hpfSel.trans h.hpfSel⟩

theorem Micro.Passed.cfg {m : Micro} {s u : State} (h : m.Passed s u) : u.cfg = s.cfg :=
  h.record.cfg.trans (m.commits_cfg s)

/-- A register that the invariant does not speak of may change besides. -/
theorem Micro.Passed.update {m : Micro} {s u v : State} (h : m.Passed s u) (hr : u.SameRecord v) (hf : v.fsm = u.fsm)
    (hs : v.slot = u.slot) (he : v.env = u.env) : m.Passed s v :=
  ⟨h.record.trans hr, hf.trans h.fsm, hs.trans h.slot, fun hd => he ▸ h.device hd⟩

/-- A collaborator call besides, which keeps the device. -/
theorem Micro.Passed.withEnv {m : Micro} {s u : State} {e : Env} (h : m.Passed s u)
    (he : s.env.DeviceFits s.cfg → e.DeviceFits s.cfg) : m.Passed s (u.withEnv e) :=
  ⟨h.record.trans ⟨rfl, rfl, rfl, rfl, rfl⟩, h.fsm, h.slot, he⟩

/-- A position that neither commits nor moves the sequencer nor selects a slot is passed by the state as it is. -/
theorem Micro.passed_self {m : Micro} {s : State} (hcommit : m.commits s = s) (hfsm : m.fsmAfter s.fsm = s.fsm)
    (hslot : m.slotAfter s.slot = s.slot) : m.Passed s s :=
  ⟨by rw [hcommit]; exact ⟨rfl, rfl, rfl, rfl, rfl⟩, hfsm.symm, hslot.symm, id⟩

/-- A position with a register read: it ends with the read's failure or goes on with the payload. -/
theorem Micro.leaves_busRead {m : Micro} {r : Running} {s u : State} {a : Addr} {n : Nat} {k : List Byte → State → State}
    (passed : m.Passed s u) (henv : u.env = s.env)
    (ok : ∀ e p, m.Passed s (u.withEnv e) → m.Leaves r s (k p (u.withEnv e))) : m.Leaves r s (u.busRead a n k) := by
  refine State.busRead_cases (fun e p h => ?_) (fun e x h => ?_) <;> rw [henv, passed.cfg] at h
  · exact ok e p (passed.withEnv (Env.regRead_deviceFits h))
  · exact .ends (passed.withEnv (Env.regRead_deviceFits h)) ..

/-- A position with a register write: it ends with the write's failure or goes on. -/
theorem Micro.leaves_busWrite {m : Micro} {r : Running} {s : State} {a : Addr} {v : Byte} (passed : m.Passed s s)
    (hm : [] ∈ m.successors) : m.Leaves r s (s.busWrite a v fun s => s.goOn r) := by
  refine State.busWrite_cases (fun e h => ?_) (fun e x h => ?_)
  · exact .goesOn (passed.withEnv (Env.regWrite_deviceFits h)) rfl hm rfl
  · exact .ends (passed.withEnv (Env.regWrite_deviceFits h)) ..

/-- The `TMP` reads of the configuration sequencer (R150, R151, R154). -/
theorem Micro.leaves_tmpRead {m : Micro} {r : Running} {s : State} {a : Addr} (passed : m.Passed s s)
    (hm : [] ∈ m.successors) :
    m.Leaves r s (s.busRead a 1 fun p s => (s.setTmp (firstByte p)).goOn r) :=
  Micro.leaves_busRead passed rfl fun _ _ h => .goesOn (h.update ⟨rfl, rfl, rfl, rfl, rfl⟩ rfl rfl rfl) rfl hm rfl

/-- Every position leaves what `Micro.Leaves` says. -/
theorem Micro.run_leaves (m : Micro) (r : Running) (s : State) : m.Leaves r s (m.run r s) := by
  cases m <;> simp only [Micro.run]
  case stopRd | startRd | rangeRd =>
    exact Micro.leaves_tmpRead (Micro.passed_self rfl rfl rfl) (.head _)
  case stopWr | startWr | rangeWr | filterWr | regWr =>
    exact Micro.leaves_busWrite (Micro.passed_self rfl rfl rfl) (.head _)
  case regRd | byteRd | axisRd =>
    exact Micro.leaves_busRead (Micro.passed_self rfl rfl rfl) rfl fun _ _ h => .goesOn h rfl (.head _) rfl
  case commitRange | commitFilter | enterReading | accumulate =>
    exact .goesOn ⟨⟨rfl, rfl, rfl, rfl, rfl⟩, rfl, rfl, id⟩ rfl (.head _) rfl
  case waitBegin timeout =>
    have passed : (Micro.waitBegin timeout).Passed s (s.setElapsed 0) :=
      (Micro.passed_self rfl rfl rfl).update ⟨rfl, rfl, rfl, rfl, rfl⟩ rfl rfl rfl
    split
    · exact .goesOn ((passed.withEnv fun h => Env.sleep_deviceFits h _).update ⟨rfl, rfl, rfl, rfl, rfl⟩ rfl rfl rfl)
        rfl (.head _) rfl
    · exact .goesOn passed rfl (.tail _ (.head _)) rfl
  case poll timeout =>
    have passed : ∀ e x, s.env.digitalRead (s.cfg.drdyPin.getD 0) = (e, x) →
        (Micro.poll timeout).Passed s (s.withEnv e) := fun e x h =>
      (Micro.passed_self rfl rfl rfl).withEnv (Env.digitalRead_deviceFits h)
    split
    case _ e i h => exact .ends (passed e _ h) ..
    case _ e h => exact .goesOn (passed e _ h) rfl (.head _) rfl
    case _ e h =>
      split
      · exact .ends (passed e _ h) ..
      · exact .goesOn (passed e _ h) rfl (.tail _ (.head _)) rfl
  case pollSleep timeout =>
    have slept : (Micro.pollSleep timeout).Passed s (s.withEnv (s.env.sleep s.cfg.pollInterval)) :=
      (Micro.passed_self rfl rfl rfl).withEnv fun h => Env.sleep_deviceFits h _
    exact .goesOn (slept.update ⟨rfl, rfl, rfl, rfl, rfl⟩ rfl rfl rfl) rfl (.head _) rfl
  case fifoX =>
    refine Micro.leaves_busRead ⟨⟨rfl, rfl, rfl, rfl, rfl⟩, rfl, rfl, id⟩ rfl fun e p h => ?_
    have passed : Micro.fifoX.Passed s (((s.setSlot .x).withEnv e).setXl (payloadOf p)) :=
      h.update ⟨rfl, rfl, rfl, rfl, rfl⟩ rfl rfl rfl
    split
    · exact .goesOn passed rfl (.head _) rfl
    · exact .goesOn passed rfl (.tail _ (.head _)) rfl
  case fifoY =>
    exact Micro.leaves_busRead ⟨⟨rfl, rfl, rfl, rfl, rfl⟩, rfl, rfl, id⟩ rfl fun _ _ h =>
      .goesOn (h.update ⟨rfl, rfl, rfl, rfl, rfl⟩ rfl rfl rfl) rfl (.head _) rfl
  case fifoZ =>
    exact Micro.leaves_busRead ⟨⟨rfl, rfl, rfl, rfl, rfl⟩, rfl, rfl, id⟩ rfl fun _ _ h => .goesOn h rfl (.head _) rfl
  case acqTest n =>
    have passed : (Micro.acqTest n).Passed s s := Micro.passed_self rfl rfl rfl
    split
    · exact .goesOn passed rfl (.tail _ (.head _)) rfl
    · exact .goesOn passed rfl (.head _) rfl

end Sys2Proof.Machine
end

section
/-! SUPPORT. The invariant of the machine (R21 to R31, R81) along one position and a run of
positions. -/

namespace Sys2Proof.Machine

/-! ### The invariant by the parts of the state -/

theorem State.Inv.device_fits {s : State} (h : s.Inv) : s.env.DeviceFits s.cfg := h.device

/-- A core at rest meets the invariant by its record, its device and its `SLOT`. -/
theorem State.inv_of_idle {s : State} (record : s.RecordInv) (device : s.env.DeviceFits s.cfg) (hfsm : s.fsm = .idle)
    (hop : s.op = none) (hslot : s.slot = .x) : s.Inv where
  idle := by simp [hfsm, hop]
  fits := by simp [hop]
  slot := .inl hslot
  scale := record.scale
  range := record.range
  odr := record.odr
  hpf := record.hpf
  device := device

/-- No operation in progress is in `Idle` (R30, R31). -/
theorem passes_ne_idle {i : Instr} {f : Fsm} (h : i.passes f = true) : f ≠ .idle := by
  rintro rfl
  cases i <;> cases h

/-- A drain is in `Draining` throughout (R31). -/
theorem eq_draining_of_drains {i : Instr} {f : Fsm} (hd : i.drains = true) (h : i.passes f = true) :
    f = .draining := by
  cases i
  case drainFifo | acqN | rdBurstRaw | rdBurstG => exact of_decide_eq_true h
  all_goals cases hd

/-- A triplet read passes `Reading` (R31, R194). -/
theorem passes_reading_of_isTriplet {i : Instr} (h : i.isTriplet = true) : i.passes .reading = true := by
  cases i
  case rdAxisTriplet | rdTripletRaw | rdTripletG => rfl
  all_goals cases h

/-- A core with an operation in progress meets the invariant by its record, its device, the operation and its `SLOT`. -/
theorem State.inv_goOn {s : State} {r : Running} (record : s.RecordInv) (device : s.env.DeviceFits s.cfg)
    (fits : r.Fits s) (hslot : s.slot = .x ∨ Micro.fifoX ∈ r.todo) : (s.goOn r).Inv where
  idle := by simp [passes_ne_idle fits.fsm]
  fits := by
    intro r' h
    cases h
    exact ⟨fits.fsm, fits.may, fits.shape, fits.keys⟩
  slot := hslot.imp_right fun h => ⟨r, rfl, h⟩
  scale := record.scale
  range := record.range
  odr := record.odr
  hpf := record.hpf
  device := device

/-- An idle core has `SLOT` at X (R27). -/
theorem State.Inv.slot_of_idle {s : State} (h : s.Inv) (hfsm : s.fsm = .idle) : s.slot = .x := by
  rcases h.slot with hslot | ⟨r, hop, -⟩
  · exact hslot
  · simp [h.idle.mp hfsm] at hop

/-! ### One position -/

/-- What a position puts before the rest is a position of every operation that has it, and commits nothing. -/
theorem Micro.may_and_commitsKeys_of_mem_successors {m p : Micro} {l : List Micro} (hl : l ∈ m.successors) (hp : p ∈ l) :
    (∀ i : Instr, i.may m = true → i.may p = true) ∧ ∀ c, commitsKeys c p = true := by
  cases m <;> simp only [Micro.successors, List.mem_cons, List.not_mem_nil, or_false] at hl
  case fifoX | acqTest =>
    rcases hl with rfl | rfl
    · cases hp
    · simp only [List.mem_cons, List.not_mem_nil, or_false] at hp
      rcases hp with rfl | rfl | rfl <;> exact ⟨fun _ h => h, fun _ => rfl⟩
  case waitBegin | poll =>
    rcases hl with rfl | rfl
    · cases hp
    · cases List.mem_singleton.mp hp
      exact ⟨fun _ _ => rfl, fun _ => rfl⟩
  case pollSleep =>
    subst hl
    cases List.mem_singleton.mp hp
    exact ⟨fun _ _ => rfl, fun _ => rfl⟩
  all_goals subst hl; cases hp

theorem drainShape_cons {m : Micro} {rest : List Micro} :
    drainShape (m :: rest) = true ↔ (m = .fifoY ∨ m = .fifoZ → Micro.fifoX ∈ rest) ∧ drainShape rest = true := by
  by_cases h : m = .fifoY ∨ m = .fifoZ <;> simp [drainShape, h]

/-- A position that begins a triplet puts the X-slot read behind it (R198). -/
theorem Micro.drainShape_successors {m : Micro} {l rest : List Micro} (hl : l ∈ m.successors)
    (hrest : drainShape rest = true) : drainShape (l ++ rest) = true := by
  cases m <;> simp only [Micro.successors, List.mem_cons, List.not_mem_nil, or_false] at hl
  case fifoX | acqTest | waitBegin | poll => rcases hl with rfl | rfl <;> simp [drainShape_cons, hrest]
  all_goals subst hl; simp [drainShape_cons, hrest]

/-- Behind a position the sequencer is still in a state of the operation (R31). -/
theorem Micro.Passed.passes {m : Micro} {s u : State} {i : Instr} (h : m.Passed s u) (hmay : i.may m = true)
    (hp : i.passes s.fsm = true) : i.passes u.fsm = true := by
  rw [h.fsm]
  cases m
  case enterReading => exact passes_reading_of_isTriplet hmay
  all_goals exact hp

/-- Behind a position `SLOT` is X, or the drain goes on (R27, R198). -/
theorem Micro.Passed.slot_or_mem {m : Micro} {rest : List Micro} {s u : State} (h : m.Passed s u)
    (hshape : drainShape (m :: rest) = true) (hslot : s.slot = .x ∨ Micro.fifoX ∈ m :: rest) :
    u.slot = .x ∨ Micro.fifoX ∈ rest := by
  have hgoes := (drainShape_cons.mp hshape).1
  rw [h.slot]
  cases m
  case fifoX => exact .inl rfl
  case fifoY | fifoZ => exact .inr (hgoes (by simp))
  all_goals simpa [Micro.slotAfter] using hslot

/-- What a position leaves of an operation the core can have is an operation the core can have. -/
theorem Running.Fits.passed {m : Micro} {r r' : Running} {s u : State} {l rest : List Micro} (h : r.Fits s)
    (htodo : r.todo = m :: rest) (hu : m.Passed s u) (hinstr : r'.instr = r.instr) (hl : l ∈ m.successors)
    (htodo' : r'.todo = l ++ rest) : r'.Fits u := by
  obtain ⟨hfsm, hmay, hshape, hkeys⟩ := h
  rw [htodo] at hmay hshape hkeys
  obtain ⟨hmaym, hmayrest⟩ := List.forall_mem_cons.mp hmay
  refine ⟨?_, ?_, ?_, ?_⟩
  · rw [hinstr]
    exact hu.passes hmaym hfsm
  · rw [hinstr, htodo']
    exact List.forall_mem_append.mpr
      ⟨fun p hp => (Micro.may_and_commitsKeys_of_mem_successors hl hp).1 _ hmaym, hmayrest⟩
  · rw [htodo']
    exact Micro.drainShape_successors hl (drainShape_cons.mp hshape).2
  · rw [htodo', hu.cfg]
    exact List.forall_mem_append.mpr
      ⟨fun p hp => (Micro.may_and_commitsKeys_of_mem_successors hl hp).2 _, (List.forall_mem_cons.mp hkeys).2⟩

/-- A position of the operation in progress keeps the invariant. -/
theorem Micro.Leaves.inv {m : Micro} {r : Running} {rest : List Micro} {s t : State}
    (h : m.Leaves { r with todo := rest } s t) (hs : s.Inv) (hop : s.op = some r) (htodo : r.todo = m :: rest) :
    t.Inv := by
  have fits : r.Fits s := hs.fits r hop
  have hmay : ∀ p ∈ m :: rest, r.instr.may p = true := htodo ▸ fits.may
  have record : ∀ {u}, m.Passed s u → u.RecordInv := fun hu =>
    (hs.record.commits (fits.keys m (by simp [htodo]))).congr hu.record
  have device : ∀ {u}, m.Passed s u → u.env.DeviceFits u.cfg := fun hu => hu.cfg ▸ hu.device hs.device_fits
  have slot : ∀ {u}, m.Passed s u → u.slot = .x ∨ Micro.fifoX ∈ rest := fun hu =>
    hu.slot_or_mem (htodo ▸ fits.shape) (hs.slot.imp_right fun ⟨r', hr', hx⟩ => by
      cases hop.symm.trans hr'
      exact htodo ▸ hx)
  cases h with
  | goesOn passed hinstr hl htodo' =>
    refine State.inv_goOn (record passed) (device passed) (fits.passed htodo passed hinstr hl htodo') ?_
    exact (slot passed).imp_right fun hx => htodo' ▸ List.mem_append_right _ hx
  | @ends u passed code info =>
    have hd : u.env.DeviceFits u.cfg := device passed
    refine State.inv_of_idle ((record passed).congr ⟨rfl, rfl, rfl, rfl, rfl⟩) hd rfl rfl ?_
    rw [State.raise_slot]
    split
    · rfl
    case _ hnot =>
      refine (slot passed).resolve_right fun hx => hnot ?_
      exact eq_draining_of_drains (hmay _ (List.mem_cons_of_mem _ hx))
        (passed.passes (hmay m List.mem_cons_self) fits.fsm)

/-- The return of an operation at the end of its pseudocode keeps the invariant. -/
theorem State.Inv.complete {s : State} {r : Running} (hs : s.Inv) (hop : s.op = some r) (htodo : r.todo = []) :
    (s.complete r).Inv := by
  refine State.inv_of_idle (hs.record.congr ⟨rfl, rfl, rfl, rfl, rfl⟩) hs.device_fits rfl rfl ?_
  refine hs.slot.resolve_right fun ⟨r', hr', hx⟩ => ?_
  cases hop.symm.trans hr'
  simp [htodo] at hx

/-- The core passing one position keeps the invariant. -/
theorem State.Inv.tick {s : State} (hs : s.Inv) : s.tick.Inv := by
  cases hop : s.op with
  | none => exact (State.tick_none hop).symm ▸ hs
  | some r =>
    cases htodo : r.todo with
    | nil => exact State.tick_nil hop htodo ▸ hs.complete hop htodo
    | cons m rest => exact State.tick_cons hop htodo ▸ (Micro.run_leaves m _ s).inv hs hop htodo

theorem State.Inv.run {s : State} (hs : s.Inv) (k : Nat) : (State.run k s).Inv :=
  State.run_keeps (fun _ h => h.tick) k hs

end Sys2Proof.Machine
end

section
/-! SUPPORT. What an idle core can make of an operation presented to it (R112, R237, R246), said once over all operations. -/

namespace Sys2Proof.Machine

/-- What an operation does with a core that takes it: it returns or raises at once, or it is launched as one the core can
have; a burst writes `ACC` first (R200). -/
inductive State.Started (s : State) (i : Instr) : State → Prop
  | returns (acc : List FifoTriplet) (v : Result) : Started s i ((s.setAcc acc).deliver v)
  | raises (code : ErrCode) (info : ErrInfo) : Started s i (s.raise code info)
  | launches (acc : List FifoTriplet) {f : Fsm} {todo : List Micro} {finish : Finish}
      (fits : Running.Fits ⟨i, todo, finish, [], [], []⟩ ((s.setAcc acc).setFsm f)) :
      Started s i ((s.setAcc acc).launch i f todo finish)

/-- An operation that returns at once. -/
theorem State.started_deliver (s : State) (i : Instr) (v : Result) : s.Started i (s.deliver v) := .returns s.acc v

/-- An operation that is launched. -/
theorem State.started_launch {i : Instr} {s : State} {f : Fsm} {todo : List Micro} {finish : Finish}
    (hfsm : i.passes f = true) (hmay : ∀ m ∈ todo, i.may m = true) (hshape : drainShape todo = true)
    (hkeys : ∀ m ∈ todo, commitsKeys s.cfg m = true) : s.Started i (s.launch i f todo finish) :=
  .launches s.acc ⟨hfsm, hmay, hshape, hkeys⟩

/-- An operation of a single position that neither commits nor is in the middle of a triplet is launched. -/
theorem State.started_launch_single {i : Instr} {s : State} {f : Fsm} {m : Micro} {finish : Finish}
    (hfsm : i.passes f = true) (hmay : i.may m = true) (hshape : drainShape [m] = true)
    (hkeys : commitsKeys s.cfg m = true) : s.Started i (s.launch i f [m] finish) :=
  State.started_launch hfsm (List.forall_mem_singleton.mpr hmay) hshape (List.forall_mem_singleton.mpr hkeys)

theorem State.started_registerRead {i : Instr} (hfsm : i.passes .sequencing = true) (s : State) (a : Addr) (n : Nat) :
    s.Started i (s.registerRead i a n) := by
  by_cases hn : n = 0
  · subst hn
    exact .raises ..
  · rw [State.registerRead_pos s i a hn]
    exact State.started_launch_single hfsm rfl rfl rfl

theorem State.started_registerWrite {i : Instr} (hfsm : i.passes .sequencing = true) (s : State) (a : Addr) (v : Byte) :
    s.Started i (s.registerWrite i a v) :=
  State.started_launch_single hfsm rfl rfl rfl

/-- A burst of no sample returns at once, any other is launched with an empty `ACC` (R200). -/
theorem State.started_acquire {i : Instr} (hfsm : i.passes .draining = true) (hdrains : i.drains = true) (s : State)
    (n : Nat) (finish : Finish) : s.Started i (s.acquire i n finish) := by
  unfold State.acquire
  split
  · exact .returns [] _
  · exact .launches [] ⟨hfsm, List.forall_mem_singleton.mpr hdrains, rfl, List.forall_mem_singleton.mpr rfl⟩

/-- The three axes behind the ready line (R194). -/
theorem State.started_triplet {i : Instr} (hfsm : i.passes .waitingReady = true) (htriplet : i.isTriplet = true) (s : State)
    (t : Ticks) (finish : Finish) : s.Started i (s.launch i .waitingReady (tripletSequence t) finish) :=
  State.started_launch hfsm (by simp [tripletSequence, Instr.may, htriplet]) rfl (by simp [tripletSequence, commitsKeys])

/-! ### The looked-up rows (R153) -/

theorem isRangeKey_of_lookup {t : List RangeRow} {d : Decimal} {row : RangeRow} (h : lookupRange t d = some row) :
    isRangeKey t row.key = true :=
  List.any_eq_true.mpr ⟨row, List.mem_of_find?_eq_some h, decide_eq_true rfl⟩

theorem isOdrKey_of_lookup {t : List OdrRow} {d : Decimal} {row : OdrRow} (h : lookupOdr t d = some row) :
    isOdrKey t row.key = true :=
  List.any_eq_true.mpr ⟨row, List.mem_of_find?_eq_some h, decide_eq_true rfl⟩

theorem isHpfKey_of_lookup {t : List HpfRow} {k : Int} {row : HpfRow} (h : lookupHpf t k = some row) :
    isHpfKey t row.key = true :=
  List.any_eq_true.mpr ⟨row, List.mem_of_find?_eq_some h, decide_eq_true rfl⟩

theorem may_of_mem_rangeSequence {i : Instr} (hi : i.setsRange = true) (row : RangeRow) :
    ∀ m ∈ rangeSequence row, i.may m = true := by
  simp [rangeSequence, stopSequence, startSequence, Instr.may, hi]

theorem may_of_mem_filterSequence {i : Instr} (hi : i.setsFilter = true) (orow : OdrRow) (hrow : HpfRow) :
    ∀ m ∈ filterSequence orow hrow, i.may m = true := by
  simp [filterSequence, stopSequence, startSequence, Instr.may, hi]

theorem commitsKeys_of_mem_rangeSequence {c : Config} {row : RangeRow} (h : isRangeKey c.rangeTable row.key = true) :
    ∀ m ∈ rangeSequence row, commitsKeys c m = true := by
  simp [rangeSequence, stopSequence, startSequence, commitsKeys, h]

theorem commitsKeys_of_mem_filterSequence {c : Config} {orow : OdrRow} {hrow : HpfRow}
    (hodr : isOdrKey c.odrTable orow.key = true) (hhpf : isHpfKey c.hpfTable hrow.key = true) :
    ∀ m ∈ filterSequence orow hrow, commitsKeys c m = true := by
  simp [filterSequence, stopSequence, startSequence, commitsKeys, hodr, hhpf]

/-! ### The operations -/

/-- A busy core stays as it is, an idle one does what the operation does behind the clearing of `WARN` (R237, R246). -/
theorem State.accept_started {i : Instr} {s t : State} {k : State → State} (h : s.accept k = .next t)
    (hk : ∀ u : State, u.Started i (k u)) : (s.fsm ≠ .idle ∧ t = s) ∨ (s.fsm = .idle ∧ s.begin.Started i t) := by
  by_cases hfsm : s.fsm = .idle
  · rw [State.accept_idle hfsm, Host.Outcome.next.injEq] at h
    exact .inr ⟨hfsm, h ▸ hk s.begin⟩
  · rw [State.accept_busy hfsm, Host.Outcome.next.injEq] at h
    exact .inl ⟨hfsm, h.symm⟩

/-- Every operation starts as `State.Started` says. -/
theorem exec_started {i : Instr} {s t : State} (h : exec i s = .next t) :
    (s.fsm ≠ .idle ∧ t = s) ∨ (s.fsm = .idle ∧ s.begin.Started i t) := by
  cases i <;> rw [exec] at h
  case encWr | decRaw20 | sext20 | toG => exact State.accept_started h fun u => State.started_deliver u _ _
  case encRd | decRsp =>
    refine State.accept_started h fun u => ?_
    split
    · exact State.started_deliver ..
    · exact .raises ..
  case regRd =>
    refine State.accept_started h fun u => ?_
    split
    · exact .raises ..
    · split
      · exact State.started_registerRead rfl ..
      · exact .raises ..
  case regWr =>
    refine State.accept_started h fun u => ?_
    split
    · exact State.started_registerWrite rfl ..
    · exact .raises ..
  case frameRd | rd1DevidAd | rd1DevidMst | rd1Partid | rd1Status | rd3Xdata | rd3Ydata | rd3Zdata | rd3FifoData |
      rd1Range | rd1PowerCtl =>
    exact State.accept_started h fun u => State.started_registerRead rfl u _ _
  case frameWr | wrFilter | wrRange | wrPowerCtl =>
    exact State.accept_started h fun u => State.started_registerWrite rfl u _ _
  case start | stop | identify =>
    exact State.accept_started h fun u => State.started_launch rfl (List.all_eq_true.mp rfl) rfl (List.all_eq_true.mp rfl)
  case status | waitReady | drainFifo =>
    exact State.accept_started h fun u => State.started_launch_single rfl rfl rfl rfl
  case setRange r =>
    refine State.accept_started h fun u => ?_
    split
    · exact .raises ..
    case _ row hrow =>
      exact State.started_launch rfl (may_of_mem_rangeSequence rfl row) rfl
        (commitsKeys_of_mem_rangeSequence (isRangeKey_of_lookup hrow))
  case setFilter =>
    refine State.accept_started h fun u => ?_
    split
    · exact .raises ..
    case _ orow horow =>
      split
      · exact .raises ..
      case _ hrow hhrow =>
        exact State.started_launch rfl (may_of_mem_filterSequence rfl orow hrow) rfl
          (commitsKeys_of_mem_filterSequence (isOdrKey_of_lookup horow) (isHpfKey_of_lookup hhrow))
  case configure =>
    refine State.accept_started h fun u => ?_
    split
    · exact .raises ..
    case _ row hrow =>
      split
      · exact .raises ..
      case _ orow horow =>
        split
        · exact .raises ..
        case _ frow hfrow =>
          refine State.started_launch rfl (List.forall_mem_append.mpr ⟨?_, ?_⟩) rfl (List.forall_mem_append.mpr ⟨?_, ?_⟩)
          · exact may_of_mem_rangeSequence rfl row
          · exact may_of_mem_filterSequence rfl orow frow
          · exact commitsKeys_of_mem_rangeSequence (isRangeKey_of_lookup hrow)
          · exact commitsKeys_of_mem_filterSequence (isOdrKey_of_lookup horow) (isHpfKey_of_lookup hfrow)
  case rdAxisRaw =>
    refine State.accept_started h fun u => ?_
    split
    · exact .raises ..
    · exact State.started_launch_single rfl rfl rfl rfl
  case rdAxisTriplet | rdTripletRaw => exact State.accept_started h fun u => State.started_triplet rfl rfl u _ _
  case rdTripletG =>
    refine State.accept_started h fun u => ?_
    split
    · exact .raises ..
    · exact State.started_triplet rfl rfl ..
  case acqN | rdBurstRaw => exact State.accept_started h fun u => State.started_acquire rfl rfl u _ _
  case rdBurstG =>
    refine State.accept_started h fun u => ?_
    split
    · exact .raises ..
    · exact State.started_acquire rfl rfl ..

end Sys2Proof.Machine
end

section
/-! SUPPORT. What a step can do, said once, and with it the statements on every step (R21 to R31, R46, R81). -/

namespace Sys2Proof.Machine

/-- What a step that ends in a next state does (R232, R246, R260): the reset event, the next positions of the operation in
progress, nothing, the start of the request at the head of the port, or the refusal of an unknown code. -/
inductive State.StepsTo (s : State) : State → Prop
  | resets (hreset : s.resetIn = true) : StepsTo s s.applyReset
  | goesOn {r : Running} (hop : s.op = some r) : StepsTo s s.resume
  | waits : StepsTo s s
  | takes {q : Request} {rest : List Request} {i : Instr} {t : State} (hop : s.op = none) (hfsm : s.fsm = .idle)
      (hport : s.port = q :: rest) (hdecode : decode s.cfg.numerics q = .ok i)
      (started : (s.withPort rest).begin.Started i t) : StepsTo s t
  | refuses (rest : List Request) (code : Byte) (hfsm : s.fsm = .idle) : StepsTo s ((s.withPort rest).refuseCode code)

theorem step_stepsTo {s t : State} (h : step s = .next t) : s.StepsTo t := by
  cases hreset : s.resetIn with
  | true =>
    have hfound : s.found = .reset := by simp [State.found, hreset]
    rw [step, hfound] at h
    cases h
    exact .resets hreset
  | false =>
    cases hop : s.op with
    | some r =>
      have hfound : s.found = .inProgress := by simp [State.found, hreset, hop]
      rw [step, hfound] at h
      cases h
      exact .goesOn hop
    | none =>
      by_cases hfsm : s.fsm = .idle
      · have hbusy : s.busy = false := State.busy_eq_false_of_idle hfsm
        cases hport : s.port with
        | nil =>
          have hfound : s.found = .nothing := by simp [State.found, hreset, hop, hbusy, hport]
          rw [step, hfound] at h
          cases h
          exact .waits
        | cons q rest =>
          cases hdecode : decode s.cfg.numerics q with
          | ok i =>
            rw [step_of_found_request (State.found_eq_request hreset hop hfsm hport hdecode)] at h
            rcases exec_started h with ⟨hbusy, -⟩ | ⟨-, started⟩
            · exact absurd hfsm hbusy
            · exact .takes hop hfsm hport hdecode started
          | error x =>
            cases x
            case unknownCode code =>
              have hfound : s.found = .unknown code (s.withPort rest) := by
                simp [State.found, hreset, hop, hbusy, hport, hdecode]
              rw [step, hfound] at h
              cases h
              exact .refuses rest code hfsm
            all_goals
              have hfound : s.found = .notPresentable := by simp [State.found, hreset, hop, hbusy, hport, hdecode]
              rw [step, hfound] at h
              cases h
      · have hbusy : s.busy = true := decide_eq_true hfsm
        have hfound : s.found = .lost := by simp [State.found, hreset, hop, hbusy]
        rw [step, hfound] at h
        cases h

/-! ### The configuration (R25, R46) -/

theorem State.Started.cfg {i : Instr} {s t : State} (h : s.Started i t) : t.cfg = s.cfg := by
  cases h with
  | returns => rfl
  | raises => rfl
  | launches => exact (State.run_inputs ..).1

/-- Settles O13: the reset event keeps the configuration, and so do the start and the positions of every operation. -/
theorem configurationIsConstant : Obligations.ConfigurationIsConstant := by
  intro s t h
  cases step_stepsTo h with
  | resets => rfl
  | goesOn => exact (State.run_inputs ..).1
  | waits => rfl
  | takes _ _ _ _ started => exact started.cfg
  | refuses => rfl

/-! ### The invariant -/

/-- Settles O9. -/
theorem stateAfterReset : Obligations.StateAfterReset := by
  refine ⟨rfl, rfl, rfl, rfl, rfl, rfl, rfl, rfl, rfl, rfl, rfl, ?_⟩
  exact State.busy_eq_false_of_idle rfl

/-- The reference device in its initial state is in canonical form, its FIFO empty (R81). -/
theorem Env.initial_deviceFits (c : Config) : Env.initial.DeviceFits c := by
  intro d hd
  cases hd
  exact ⟨Memory.nil_wf c.regmap, Nat.zero_le _⟩

/-- Settles O10: the reset state is at rest, its record undefined, its device in the initial state. -/
theorem invariantAtReset : Obligations.InvariantAtReset :=
  State.inv_of_idle (State.recordInv_of_none rfl rfl rfl rfl) (Env.initial_deviceFits _) rfl rfl rfl

/-- The reset event leads to the invariant from every state whose device fits (R260, R262). -/
theorem State.inv_applyReset {s : State} (device : s.env.DeviceFits s.cfg) : s.applyReset.Inv :=
  State.inv_of_idle (State.recordInv_of_none rfl rfl rfl rfl) device rfl rfl rfl

/-- An operation the core can have, latched at a core at rest (R32). -/
theorem State.inv_latched {s : State} {acc : List FifoTriplet} {f : Fsm} {r : Running} (record : s.RecordInv)
    (device : s.env.DeviceFits s.cfg) (hslot : s.slot = .x) (fits : r.Fits ((s.setAcc acc).setFsm f)) :
    (((s.setAcc acc).setFsm f).goOn r).Inv :=
  State.inv_goOn (s := (s.setAcc acc).setFsm f) (record.congr ⟨rfl, rfl, rfl, rfl, rfl⟩) device fits (.inl hslot)

/-- The start of an operation at a core at rest leads to the invariant. -/
theorem State.Started.inv {i : Instr} {s t : State} (h : s.Started i t) (record : s.RecordInv)
    (device : s.env.DeviceFits s.cfg) (hslot : s.slot = .x) : t.Inv := by
  cases h with
  | returns acc v => exact State.inv_of_idle (record.congr ⟨rfl, rfl, rfl, rfl, rfl⟩) device rfl rfl hslot
  | raises code info =>
    refine State.inv_of_idle (record.congr ⟨rfl, rfl, rfl, rfl, rfl⟩) device rfl rfl ?_
    simp [hslot]
  | launches acc fits => exact (State.inv_latched record device hslot fits).run _

/-- Settles O11: the invariant along each of the five things a step can do; along an operation in progress it is kept by
every position (`Micro.Leaves.inv`). -/
theorem stepKeepsTheInvariant : Obligations.StepKeepsTheInvariant := by
  intro s t hs h
  have device := hs.device_fits
  cases step_stepsTo h with
  | resets => exact State.inv_applyReset device
  | goesOn => exact hs.run s.fuel
  | waits => exact hs
  | takes _ hfsm _ _ started =>
    exact started.inv (hs.record.congr ⟨rfl, rfl, rfl, rfl, rfl⟩) device (hs.slot_of_idle hfsm)
  | refuses rest code hfsm =>
    refine State.inv_of_idle (hs.record.congr ⟨rfl, rfl, rfl, rfl, rfl⟩) device rfl rfl ?_
    simp [State.refuseCode, hs.slot_of_idle hfsm]

/-! ### Who changes the record (R21 to R24) -/

/-- From `s` to `t` the record changes only as the operation `i` may change it: `RANGE_SEL` and `SCALE` where `i` sets the
range, `ODR_SEL` and `HPF_SEL` where it sets the filter. -/
structure State.RecordBy (i : Instr) (s t : State) : Prop where
  range : i.setsRange = false → t.rangeSel = s.rangeSel ∧ t.scale = s.scale
  filter : i.setsFilter = false → t.odrSel = s.odrSel ∧ t.hpfSel = s.hpfSel

theorem State.SameRecord.recordBy {s t : State} (h : s.SameRecord t) (i : Instr) : s.RecordBy i t :=
  ⟨fun _ => ⟨h.rangeSel, h.scale⟩, fun _ => ⟨h.odrSel, h.hpfSel⟩⟩

theorem State.RecordBy.trans {i : Instr} {s t u : State} (h : s.RecordBy i t) (h' : t.RecordBy i u) : s.RecordBy i u where
  range hi := ⟨(h'.range hi).1.trans (h.range hi).1, (h'.range hi).2.trans (h.range hi).2⟩
  filter hi := ⟨(h'.filter hi).1.trans (h.filter hi).1, (h'.filter hi).2.trans (h.filter hi).2⟩

theorem State.goOn_sameRecord (s : State) (r : Running) : s.SameRecord (s.goOn r) := ⟨rfl, rfl, rfl, rfl, rfl⟩

theorem State.raise_sameRecord (s : State) (code : ErrCode) (info : ErrInfo) : s.SameRecord (s.raise code info) :=
  ⟨rfl, rfl, rfl, rfl, rfl⟩

/-- A commit the operation may have changes the record as the operation may change it. -/
theorem Micro.commits_recordBy {i : Instr} {m : Micro} (hmay : i.may m = true) (s : State) : s.RecordBy i (m.commits s) := by
  cases m
  case commitRange key =>
    exact ⟨fun hi => absurd hi (by rw [show i.setsRange = true from hmay]; simp), fun _ => ⟨rfl, rfl⟩⟩
  case commitFilter odr hpf =>
    exact ⟨fun _ => ⟨rfl, rfl⟩, fun hi => absurd hi (by rw [show i.setsFilter = true from hmay]; simp)⟩
  all_goals exact ⟨fun _ => ⟨rfl, rfl⟩, fun _ => ⟨rfl, rfl⟩⟩

theorem Micro.Leaves.recordBy {m : Micro} {r : Running} {s t : State} (h : m.Leaves r s t)
    (hmay : r.instr.may m = true) : s.RecordBy r.instr t := by
  have passed : ∀ {u}, m.Passed s u → s.RecordBy r.instr u := fun hu =>
    (Micro.commits_recordBy hmay s).trans (hu.record.recordBy _)
  cases h with
  | @goesOn u r' _ hu => exact (passed hu).trans ((u.goOn_sameRecord r').recordBy _)
  | @ends u hu code info => exact (passed hu).trans ((u.raise_sameRecord code info).recordBy _)

/-- A position leaves the operation in progress, or none. -/
theorem Micro.Leaves.instr_eq {m : Micro} {r r' : Running} {s t : State} (h : m.Leaves r s t) (hop : t.op = some r') :
    r'.instr = r.instr := by
  cases h with
  | goesOn _ hinstr =>
    cases hop
    exact hinstr
  | ends => cases hop

/-- No operation but `i` is in progress in `s`. -/
def State.RunsOnly (i : Instr) (s : State) : Prop := ∀ r, s.op = some r → r.instr = i

/-- The core passing one position of `i` goes on with `i`, and changes the record as `i` may. -/
theorem State.tick_recordBy {i : Instr} {s : State} (hs : s.Inv) (hi : s.RunsOnly i) :
    s.RecordBy i s.tick ∧ s.tick.RunsOnly i := by
  have same : ∀ {t}, s.SameRecord t → s.RecordBy i t := fun h => h.recordBy i
  cases hop : s.op with
  | none =>
    rw [State.tick_none hop]
    exact ⟨same ⟨rfl, rfl, rfl, rfl, rfl⟩, hi⟩
  | some r =>
    obtain rfl := hi r hop
    cases htodo : r.todo with
    | nil =>
      rw [State.tick_nil hop htodo]
      exact ⟨same ⟨rfl, rfl, rfl, rfl, rfl⟩, fun _ h => by cases h⟩
    | cons m rest =>
      rw [State.tick_cons hop htodo]
      have leaves := Micro.run_leaves m { r with todo := rest } s
      exact ⟨leaves.recordBy ((hs.fits r hop).may m (by simp [htodo])), fun _ h => leaves.instr_eq h⟩

theorem State.run_recordBy {i : Instr} {s : State} (hs : s.Inv) (hi : s.RunsOnly i) (k : Nat) :
    s.RecordBy i (State.run k s) := by
  have kept := State.run_keeps (P := fun t => t.Inv ∧ s.RecordBy i t ∧ t.RunsOnly i)
    (fun t ⟨ht, hrec, hruns⟩ =>
      have ⟨htick, hruns'⟩ := State.tick_recordBy ht hruns
      ⟨ht.tick, hrec.trans htick, hruns'⟩) k
    ⟨hs, State.SameRecord.recordBy ⟨rfl, rfl, rfl, rfl, rfl⟩ i, hi⟩
  exact kept.2.1

theorem State.Started.recordBy {i : Instr} {s t : State} (h : s.Started i t) (record : s.RecordInv)
    (device : s.env.DeviceFits s.cfg) (hslot : s.slot = .x) : s.RecordBy i t := by
  have same : ∀ {t}, s.SameRecord t → s.RecordBy i t := fun h => h.recordBy i
  cases h with
  | returns => exact same ⟨rfl, rfl, rfl, rfl, rfl⟩
  | raises => exact same ⟨rfl, rfl, rfl, rfl, rfl⟩
  | launches acc fits =>
    have latched := State.inv_latched record device hslot fits
    have hruns := State.run_recordBy latched (fun r hr => by cases hr; rfl) s.fuel
    refine State.RecordBy.trans ?_ hruns
    exact same ⟨rfl, rfl, rfl, rfl, rfl⟩

/-- The operation that a step of `s` runs, where it runs one: the one in progress, or the one at the head of the port. -/
def State.Runs (s : State) (i : Instr) : Prop :=
  (∃ r, s.op = some r ∧ r.instr = i) ∨
    (s.op = none ∧ ∃ q rest, s.port = q :: rest ∧ decode s.cfg.numerics q = .ok i)

/-- A step besides the reset event leaves the record, or changes it as the operation it runs may. -/
theorem step_sameRecord_or_recordBy {s t : State} (hs : s.Inv) (h : step s = .next t) (hreset : s.resetIn = false) :
    s.SameRecord t ∨ ∃ i, s.Runs i ∧ s.RecordBy i t := by
  cases step_stepsTo h with
  | resets hup => simp [hreset] at hup
  | @goesOn r hop =>
    have hruns : s.RunsOnly r.instr := fun r' hr' => by cases hop.symm.trans hr'; rfl
    exact .inr ⟨r.instr, .inl ⟨r, hop, rfl⟩, State.run_recordBy hs hruns s.fuel⟩
  | waits => exact .inl ⟨rfl, rfl, rfl, rfl, rfl⟩
  | @takes q rest i _ hop hfsm hport hdecode started =>
    have hrec := started.recordBy (hs.record.congr ⟨rfl, rfl, rfl, rfl, rfl⟩) hs.device_fits (hs.slot_of_idle hfsm)
    exact .inr ⟨i, .inr ⟨hop, q, rest, hport, hdecode⟩, ⟨hrec.range, hrec.filter⟩⟩
  | refuses => exact .inl ⟨rfl, rfl, rfl, rfl, rfl⟩

/-- The operation a step runs, written out with what it may set. -/
theorem State.Runs.with_property {s : State} {i : Instr} {p : Instr → Bool} (h : s.Runs i) (hp : p i = true) :
    (∃ r, s.op = some r ∧ p r.instr = true) ∨
    (s.op = none ∧ ∃ q rest i, s.port = q :: rest ∧ decode s.cfg.numerics q = .ok i ∧ p i = true) := by
  rcases h with ⟨r, hop, rfl⟩ | ⟨hop, q, rest, hport, hdecode⟩
  · exact .inl ⟨r, hop, hp⟩
  · exact .inr ⟨hop, q, rest, i, hport, hdecode, hp⟩

/-- Settles O14: a commit stands only in the pseudocode of an operation that may set what it commits, which the invariant
says of the operation in progress and `State.Started` of the one just taken. -/
theorem onlyConfigurationChangesTheRecord : Obligations.OnlyConfigurationChangesTheRecord := by
  intro s t hs h hreset
  rcases step_sameRecord_or_recordBy hs h hreset with same | ⟨i, hruns, hrec⟩
  · exact ⟨fun hne => absurd hne (by simp [same.rangeSel, same.scale]),
      fun hne => absurd hne (by simp [same.odrSel, same.hpfSel])⟩
  · refine ⟨fun hne => hruns.with_property ?_, fun hne => hruns.with_property ?_⟩
    · by_contra hsets
      obtain ⟨hrange, hscale⟩ := hrec.range (Bool.eq_false_iff.mpr hsets)
      exact hne.elim (· hrange) (· hscale)
    · by_contra hsets
      obtain ⟨hodr, hhpf⟩ := hrec.filter (Bool.eq_false_iff.mpr hsets)
      exact hne.elim (· hodr) (· hhpf)

end Sys2Proof.Machine
end

section
/-! SUPPORT. The two access primitives as one transfer each (R60, R61, R66, R67), and what the reference device answers to
their frames (R81 to R84). -/

namespace Sys2Proof.Machine

/-! ### The frames in numbers (R91, R92, R96) -/

theorem readCommand_eq_ofNat (a : Addr) : readCommand a = BitVec.ofNat 8 (2 * a.toNat + 1) := by revert a; decide

theorem writeCommand_eq_ofNat (a : Addr) : writeCommand a = BitVec.ofNat 8 (2 * a.toNat) := by revert a; decide

theorem readFrame_eq_ofNat (a : Addr) (n : Nat) :
    readFrame a n = BitVec.ofNat 8 (2 * a.toNat + 1) :: List.replicate n 0 := by
  rw [readFrame, readCommand_eq_ofNat]

theorem writeFrame_eq_ofNat (a : Addr) (v : Byte) : writeFrame a v = [BitVec.ofNat 8 (2 * a.toNat), v] := by
  rw [writeFrame, writeCommand_eq_ofNat]

/-! ### `RegRead` and `RegWrite` by the answer of their transfer -/

/-- A read of no byte is refused before any transfer (R66, R130). -/
theorem Env.regRead_zero (m : RegMap) (e : Env) (a : Addr) :
    e.regRead m a 0 = (e, .error (.invalidArgument, .length)) := by
  simp [Env.regRead, encodeRead]

section
variable {m : RegMap} {e e' : Env} {a : Addr} {n : Nat}

theorem Env.regRead_of_fail {k : Nat} (hn : n ≠ 0) (h : e.transfer m (readFrame a n) = (e', .fail k)) :
    e.regRead m a n = (e', .error (.transportError, .transport k)) := by
  simp [Env.regRead, encodeRead, hn, h]

theorem Env.regRead_of_respond {b : Byte} {p : List Byte} (hn : n ≠ 0)
    (h : e.transfer m (readFrame a n) = (e', .respond (b :: p))) (hp : p.length = n) :
    e.regRead m a n = (e', .ok p) := by
  simp [Env.regRead, encodeRead, hn, h, hp, decodeReadResponse]

theorem Env.regRead_of_wrong_length {resp : List Byte} (hn : n ≠ 0)
    (h : e.transfer m (readFrame a n) = (e', .respond resp)) (hresp : resp.length ≠ n + 1) :
    e.regRead m a n = (e', .error (.transportError, .responseLength)) := by
  simp [Env.regRead, encodeRead, hn, h, hresp]

variable {v : Byte}

theorem Env.regWrite_of_fail {k : Nat} (h : e.transfer m (writeFrame a v) = (e', .fail k)) :
    e.regWrite m a v = (e', .error (.transportError, .transport k)) := by
  simp [Env.regWrite, encodeWrite, h]

theorem Env.regWrite_of_respond {resp : List Byte} (h : e.transfer m (writeFrame a v) = (e', .respond resp))
    (hresp : resp.length = 2) : e.regWrite m a v = (e', .ok ()) := by
  simp [Env.regWrite, encodeWrite, h, hresp]

theorem Env.regWrite_of_wrong_length {resp : List Byte} (h : e.transfer m (writeFrame a v) = (e', .respond resp))
    (hresp : resp.length ≠ 2) : e.regWrite m a v = (e', .error (.transportError, .responseLength)) := by
  simp [Env.regWrite, encodeWrite, h, hresp]

end

/-- Settles O20: each access by the three answers its one transfer can have. -/
theorem registerAccessIsOneTransaction : Obligations.RegisterAccessIsOneTransaction := by
  intro m e a
  refine ⟨Env.regRead_zero m e a, fun n hn => ?_, fun v => ?_⟩
  · have hn : n ≠ 0 := Nat.one_le_iff_ne_zero.mp hn
    refine ⟨_, _, _, rfl, rfl, Env.transfer_history m e _, ?_⟩
    rw [← readFrame_eq_ofNat]
    exact ⟨fun k h => Env.regRead_of_fail hn (Prod.ext rfl h),
      fun b p h hp => Env.regRead_of_respond hn (Prod.ext rfl h) hp,
      fun r h hr => Env.regRead_of_wrong_length hn (Prod.ext rfl h) hr⟩
  · refine ⟨_, _, _, rfl, rfl, Env.transfer_history m e _, ?_⟩
    rw [← writeFrame_eq_ofNat]
    exact ⟨fun k h => Env.regWrite_of_fail (Prod.ext rfl h),
      fun r h hr => Env.regWrite_of_respond (Prod.ext rfl h) hr,
      fun r h hr => Env.regWrite_of_wrong_length (Prod.ext rfl h) hr⟩

/-! ### The reference device (R81 to R84) -/

/-- The reference device with one more frame in its log (R81). -/
def RefDevice.logged (d : RefDevice) (f : Frame) : RefDevice := { d with log := d.log ++ [f] }

@[simp] theorem RefDevice.logged_mem (d : RefDevice) (f : Frame) : (d.logged f).mem = d.mem := rfl
@[simp] theorem RefDevice.logged_fifo (d : RefDevice) (f : Frame) : (d.logged f).fifo = d.fifo := rfl

/-- A read away from `FIFO_DATA` is answered from the registers (R82). -/
theorem RefDevice.receive_readFrame {m : RegMap} {a : Addr} {n : Nat} (hn : n ≠ 0) (ha : a ≠ m.fifoData)
    (d : RefDevice) :
    d.receive m (readFrame a n) = some (d.logged (readFrame a n), (d.logged (readFrame a n)).readRegs m a n) := by
  simp only [RefDevice.receive, parseFrame_readFrame a hn, ha, if_false, RefDevice.logged]

/-- A 3-byte read at `FIFO_DATA` is answered from the FIFO (R84). -/
theorem RefDevice.receive_fifoFrame (m : RegMap) (d : RefDevice) :
    d.receive m (readFrame m.fifoData 3) = some (d.logged (readFrame m.fifoData 3)).popFifo := by
  simp only [RefDevice.receive, parseFrame_readFrame m.fifoData (n := 3) (by decide), if_true, RefDevice.logged]

/-- A write frame is answered by two zero bytes (R83). -/
theorem RefDevice.receive_writeFrame (m : RegMap) (d : RefDevice) (a : Addr) (v : Byte) :
    d.receive m (writeFrame a v) = some ((d.logged (writeFrame a v)).writeReg m a v, [0x00, 0x00]) := by
  simp only [RefDevice.receive, parseFrame_writeFrame, RefDevice.logged]

theorem RefDevice.writeReg_fifo (m : RegMap) (d : RefDevice) (a : Addr) (v : Byte) :
    (d.writeReg m a v).fifo = d.fifo := by
  rw [RefDevice.writeReg]
  split <;> rfl

/-- A register after a write: the byte where it is the addressed one and writable, else as before (R83). -/
theorem RefDevice.read_writeReg (m : RegMap) (d : RefDevice) (a : Addr) (v : Byte) (b : Nat) :
    Memory.read m (d.writeReg m a v).mem b =
      if b = a.toNat ∧ writable m a = true ∧ a.toNat ≤ addrMax then v else Memory.read m d.mem b := by
  rw [RefDevice.writeReg]
  split
  case isTrue hw => simp [Memory.read_write, hw, eq_comm]
  case isFalse hw => rw [if_neg fun h => hw h.2]

theorem RefDevice.popFifo_cons {d : RefDevice} {p : Payload} {rest : List Payload} (h : d.fifo = p :: rest) :
    d.popFifo = ({ d with fifo := rest }, [0x00, p.high, p.mid, p.low]) := by
  simp [RefDevice.popFifo, h]

theorem RefDevice.popFifo_nil {d : RefDevice} (h : d.fifo = []) : d.popFifo = (d, [0x00, 0x00, 0x00, 0x02]) := by
  simp [RefDevice.popFifo, h]

/-- Settles O58: the device by the kind of the frame, a read at `FIFO_DATA` by whether the FIFO is empty. -/
theorem referenceDeviceAnswers : Obligations.ReferenceDeviceAnswers := by
  intro m d
  refine ⟨fun a n hn ha => ?_, fun a v => ?_, fun p rest hfifo => ?_, fun hfifo => ?_⟩
  · refine ⟨_, RefDevice.receive_readFrame (Nat.one_le_iff_ne_zero.mp hn) ha d, by simp, fun j hj => ?_⟩
    simp [hj, RefDevice.byteAt, addrMax]
  · exact ⟨_, RefDevice.receive_writeFrame m d a v, RefDevice.writeReg_fifo .., RefDevice.read_writeReg m _ a v⟩
  · refine ⟨_, (RefDevice.receive_fifoFrame m d).trans (congrArg some (RefDevice.popFifo_cons hfifo)), rfl, rfl⟩
  · refine ⟨_, (RefDevice.receive_fifoFrame m d).trans (congrArg some (RefDevice.popFifo_nil hfifo)), hfifo, rfl⟩

end Sys2Proof.Machine
end

section
/-! SUPPORT. What an operation does to the environment behind the collaborator ports: one call a position at most, recorded
at the end of the record (R74), and no device register written but those of its write frames (R78, R83). -/

namespace Sys2Proof.Machine

/-! ### The call of one position -/

/-- What a position can do to the environment: nothing, or one collaborator call, a register write at one of the addresses
`l` only. -/
inductive Env.Call (m : RegMap) (l : List Addr) (e : Env) : Env → Prop
  | none : Call m l e e
  | sleep (t : Ticks) : Call m l e (e.sleep t)
  | sample (p : Pin) : Call m l e (e.digitalRead p).1
  | read (a : Addr) (n : Nat) : Call m l e (e.regRead m a n).1
  | write {a : Addr} (ha : a ∈ l) (v : Byte) : Call m l e (e.regWrite m a v).1

/-- The addresses a position writes (R150, R151, R154, R155, R137). -/
def Micro.stores (m : RegMap) : Micro → List Addr
  | .stopWr | .startWr => [m.powerCtl]
  | .rangeWr _ => [m.range]
  | .filterWr _ _ => [m.filter]
  | .regWr a _ => [a]
  | _ => []

theorem Env.call_busRead {s u : State} {l : List Addr} {a : Addr} {n : Nat} {k : List Byte → State → State}
    (henv : u.env = s.env) (hcfg : u.cfg = s.cfg) (hk : ∀ p v, (k p v).env = v.env) :
    s.env.Call s.cfg.regmap l (u.busRead a n k).env := by
  rw [← henv, ← hcfg]
  have read : u.env.Call u.cfg.regmap l (u.env.regRead u.cfg.regmap a n).1 := .read a n
  refine State.busRead_cases (P := fun v => u.env.Call u.cfg.regmap l v.env) (fun e p h => ?_) fun e x h => ?_
  · rw [h] at read
    rw [hk]
    exact read
  · rw [h] at read
    exact read

theorem Env.call_busWrite {s : State} {l : List Addr} {a : Addr} {v : Byte} {r : Running} (ha : a ∈ l) :
    s.env.Call s.cfg.regmap l (s.busWrite a v fun u => u.goOn r).env := by
  have write : s.env.Call s.cfg.regmap l (s.env.regWrite s.cfg.regmap a v).1 := .write ha v
  refine State.busWrite_cases (P := fun u => s.env.Call s.cfg.regmap l u.env) (fun e h => ?_) fun e x h => ?_ <;>
  · rw [h] at write
    exact write

/-- A position makes one collaborator call at most, and writes at its own addresses only. -/
theorem Micro.run_call (m : Micro) (r : Running) (s : State) :
    s.env.Call s.cfg.regmap (m.stores s.cfg.regmap) (m.run r s).env := by
  cases m <;> simp only [Micro.run]
  case stopRd | startRd | rangeRd | regRd | byteRd | axisRd | fifoY | fifoZ =>
    exact Env.call_busRead rfl rfl fun _ _ => rfl
  case fifoX =>
    refine Env.call_busRead rfl rfl fun _ _ => ?_
    split <;> rfl
  case stopWr | startWr | rangeWr | filterWr | regWr => exact Env.call_busWrite (List.mem_singleton.mpr rfl)
  case commitRange | commitFilter | enterReading | accumulate => exact .none
  case waitBegin t =>
    split
    · exact .sleep t
    · exact .none
  case poll =>
    have sample : s.env.Call s.cfg.regmap [] (s.env.digitalRead (s.cfg.drdyPin.getD 0)).1 := .sample _
    split
    case _ e i h => rw [h] at sample; exact sample
    case _ e h => rw [h] at sample; exact sample
    case _ e h =>
      rw [h] at sample
      split <;> exact sample
  case pollSleep => exact .sleep _
  case acqTest => split <;> exact .none

/-! ### The record of calls (R74) -/

theorem Env.Call.history_grows {m : RegMap} {l : List Addr} {e e' : Env} (h : e.Call m l e') :
    e.history <+: e'.history := by
  cases h with
  | none => exact ⟨[], List.append_nil _⟩
  | sleep t => exact ⟨_, rfl⟩
  | sample p =>
    rw [Env.digitalRead_history]
    exact ⟨_, rfl⟩
  | read a n =>
    rw [Env.regRead_env]
    split
    · exact ⟨[], List.append_nil _⟩
    · rw [Env.transfer_history]
      exact ⟨_, rfl⟩
  | write _ v =>
    rw [Env.regWrite_env, Env.transfer_history]
    exact ⟨_, rfl⟩

theorem State.tick_history_grows (s : State) : s.env.history <+: s.tick.env.history := by
  cases hop : s.op with
  | none => rw [State.tick_none hop]
  | some r =>
    cases htodo : r.todo with
    | nil => rw [State.tick_nil hop htodo, State.complete, State.deliver_env]
    | cons m rest =>
      rw [State.tick_cons hop htodo]
      exact (Micro.run_call m _ s).history_grows

theorem State.run_history_grows (k : Nat) (s : State) : s.env.history <+: (State.run k s).env.history :=
  State.run_keeps (P := fun t => s.env.history <+: t.env.history) (fun t h => h.trans t.tick_history_grows) k
    ⟨[], List.append_nil _⟩

theorem State.launch_history_grows (s : State) (i : Instr) (f : Fsm) (todo : List Micro) (finish : Finish) :
    s.env.history <+: (s.launch i f todo finish).env.history :=
  State.run_history_grows s.fuel ((s.setFsm f).goOn _)

theorem State.Started.history_grows {i : Instr} {s t : State} (h : s.Started i t) :
    s.env.history <+: t.env.history := by
  cases h with
  | returns => exact ⟨[], List.append_nil _⟩
  | raises => exact ⟨[], List.append_nil _⟩
  | launches acc => exact State.launch_history_grows (s.setAcc acc) ..

theorem step_history_grows {s t : State} (h : step s = .next t) : s.env.history <+: t.env.history := by
  cases step_stepsTo h with
  | resets => exact ⟨[], List.append_nil _⟩
  | goesOn => exact State.run_history_grows ..
  | waits => exact ⟨[], List.append_nil _⟩
  | takes _ _ _ _ started => exact started.history_grows
  | refuses => exact ⟨[], List.append_nil _⟩

/-- With the reset input up a step is the reset event (R260). -/
theorem step_of_resetIn {s : State} (h : s.resetIn = true) : step s = .next s.applyReset := by
  simp [step, State.found, h]

/-- Settles O15: the record before a step is the beginning of the record after it, and the reset event leaves it. -/
theorem callsAreOneTotalOrder : Obligations.CallsAreOneTotalOrder := by
  intro s t h
  cases hreset : s.resetIn with
  | true =>
    cases (step_of_resetIn hreset).symm.trans h
    exact ⟨[], (List.append_nil _).symm, fun _ => rfl⟩
  | false =>
    obtain ⟨l, hl⟩ := step_history_grows h
    exact ⟨l, hl.symm, nofun⟩

/-! ### The device registers (R78, R83) -/

/-- A device attached in `e'` was attached in `e` and reads as it did there, away from the addresses `l`. -/
structure Env.WritesOnly (m : RegMap) (l : List Addr) (e e' : Env) : Prop where
  device : ∀ d', e'.device = some d' → ∃ d, e.device = some d ∧
    ∀ a : Nat, (∀ x ∈ l, a ≠ x.toNat) → Memory.read m d'.mem a = Memory.read m d.mem a

section
variable {m : RegMap} {l : List Addr} {e e' : Env}

theorem Env.writesOnly_refl (m : RegMap) (l : List Addr) (e : Env) : e.WritesOnly m l e :=
  ⟨fun d hd => ⟨d, hd, fun _ _ => rfl⟩⟩

theorem Env.WritesOnly.trans {e'' : Env} (h : e.WritesOnly m l e') (h' : e'.WritesOnly m l e'') :
    e.WritesOnly m l e'' := by
  refine ⟨fun d'' hd'' => ?_⟩
  obtain ⟨d', hd', hread'⟩ := h'.device d'' hd''
  obtain ⟨d, hd, hread⟩ := h.device d' hd'
  exact ⟨d, hd, fun a ha => (hread' a ha).trans (hread a ha)⟩

/-- A device register that a frame changes is the one a write frame addresses (R82 to R84). -/
theorem RefDevice.read_receive {d d' : RefDevice} {f : Frame} {resp : List Byte} (h : d.receive m f = some (d', resp))
    (hf : ∀ x v, parseFrame f = .write x v → x ∈ l) {a : Nat} (ha : ∀ x ∈ l, a ≠ x.toNat) :
    Memory.read m d'.mem a = Memory.read m d.mem a := by
  rcases RefDevice.receive_mem h with hmem | ⟨x, v, hparse, -, -, hmem⟩
  · rw [hmem]
  · rw [hmem, Memory.read_write, if_neg (ha x (hf x v hparse)).symm]

theorem Env.transfer_writesOnly {f : Frame} (hf : ∀ x v, parseFrame f = .write x v → x ∈ l) :
    e.WritesOnly m l (e.transfer m f).1 := by
  refine ⟨fun d' hd' => ?_⟩
  obtain ⟨d, hd, rfl | ⟨resp, hr⟩⟩ := Env.transfer_device hd'
  · exact ⟨_, hd, fun _ _ => rfl⟩
  · exact ⟨d, hd, fun a ha => RefDevice.read_receive hr hf ha⟩

theorem Env.Call.writesOnly (h : e.Call m l e') : e.WritesOnly m l e' := by
  cases h with
  | none => exact Env.writesOnly_refl m l e
  | sleep => exact ⟨fun d hd => ⟨d, hd, fun _ _ => rfl⟩⟩
  | sample p =>
    refine ⟨fun d' hd' => ?_⟩
    obtain ⟨d, hd, hmem, -, -⟩ := Env.digitalRead_device hd'
    exact ⟨d, hd, fun _ _ => by rw [hmem]⟩
  | read a n =>
    rw [Env.regRead_env]
    split
    · exact Env.writesOnly_refl m l e
    case isFalse hn =>
      refine Env.transfer_writesOnly fun x v h => ?_
      simp [parseFrame_readFrame a hn] at h
  | @write a ha v =>
    rw [Env.regWrite_env]
    refine Env.transfer_writesOnly fun x w h => ?_
    rw [parseFrame_writeFrame] at h
    cases h
    exact ha

/-- More addresses allow more. -/
theorem Env.WritesOnly.mono {l' : List Addr} (h : e.WritesOnly m l e') (hl : l ⊆ l') : e.WritesOnly m l' e' := by
  refine ⟨fun d' hd' => ?_⟩
  obtain ⟨d, hd, hread⟩ := h.device d' hd'
  exact ⟨d, hd, fun a ha => hread a fun x hx => ha x (hl hx)⟩

end

/-- The positions still to do write at addresses of `l` only. -/
def State.StoresWithin (l : List Addr) (s : State) : Prop :=
  ∀ r, s.op = some r → ∀ m ∈ r.todo, m.stores s.cfg.regmap ⊆ l

/-- What a position puts before the rest, the loops of R202, writes nothing. -/
theorem Micro.stores_of_mem_successors (m : Micro) (rm : RegMap) : ∀ l ∈ m.successors, ∀ p ∈ l, p.stores rm = [] := by
  cases m <;> simp [Micro.successors, Micro.stores]

/-- Behind a position the operation writes no more than it had still to write. -/
theorem Micro.Leaves.storesWithin {m : Micro} {r : Running} {s t : State} {l : List Addr} (h : m.Leaves r s t)
    (hr : ∀ p ∈ r.todo, p.stores s.cfg.regmap ⊆ l) : t.StoresWithin l := by
  cases h with
  | @goesOn u r' put passed _ hput htodo =>
    intro r'' hop p hp
    cases hop
    rw [htodo] at hp
    rw [State.goOn_cfg, passed.cfg]
    rcases List.mem_append.mp hp with hp | hp
    · rw [m.stores_of_mem_successors _ put hput p hp]
      exact List.nil_subset l
    · exact hr p hp
  | ends => exact fun _ hop => by cases hop

theorem State.tick_writesOnly {s : State} {l : List Addr} (h : s.StoresWithin l) :
    s.env.WritesOnly s.cfg.regmap l s.tick.env ∧ s.tick.StoresWithin l := by
  cases hop : s.op with
  | none =>
    rw [State.tick_none hop]
    exact ⟨Env.writesOnly_refl .., h⟩
  | some r =>
    have todo := h r hop
    cases htodo : r.todo with
    | nil =>
      rw [State.tick_nil hop htodo]
      exact ⟨Env.writesOnly_refl .., fun _ hop => by cases hop⟩
    | cons m rest =>
      obtain ⟨hm, hrest⟩ := List.forall_mem_cons.mp (htodo ▸ todo)
      rw [State.tick_cons hop htodo]
      exact ⟨(Micro.run_call m _ s).writesOnly.mono hm, (Micro.run_leaves m _ s).storesWithin hrest⟩

theorem State.run_writesOnly {s : State} {l : List Addr} (h : s.StoresWithin l) (k : Nat) :
    s.env.WritesOnly s.cfg.regmap l (State.run k s).env := by
  have kept := State.run_keeps
    (P := fun t => t.cfg = s.cfg ∧ s.env.WritesOnly s.cfg.regmap l t.env ∧ t.StoresWithin l)
    (fun t ⟨hcfg, hwrites, hstores⟩ =>
      have ⟨htick, hstores'⟩ := State.tick_writesOnly hstores
      ⟨(State.tick_inputs t).1.trans hcfg, hwrites.trans (hcfg ▸ htick), hstores'⟩) k
    ⟨rfl, Env.writesOnly_refl .., h⟩
  exact kept.2.1

/-! ### The operations -/

/-- From `s` to `t` the operation `i` changes no device register but those it writes. -/
def State.StoresBy (i : Instr) (s t : State) : Prop :=
  s.env.WritesOnly s.cfg.regmap (i.stores s.cfg.regmap) t.env

/-- An operation that ends at once makes no call. -/
theorem State.storesBy_of_env_eq {i : Instr} {s t : State} (h : t.env = s.env) : s.StoresBy i t := by
  rw [State.StoresBy, h]
  exact Env.writesOnly_refl ..

/-- An operation launched with positions that write at its addresses only. -/
theorem State.storesBy_launch {i : Instr} {s : State} {f : Fsm} {todo : List Micro} {finish : Finish}
    (h : ∀ m ∈ todo, m.stores s.cfg.regmap ⊆ i.stores s.cfg.regmap) : s.StoresBy i (s.launch i f todo finish) := by
  refine State.run_writesOnly (s := (s.setFsm f).goOn _) (fun r hop => ?_) s.fuel
  cases hop
  exact h

/-- An operation launched with positions that write nothing. -/
theorem State.storesBy_launch_reads {i : Instr} {s : State} {f : Fsm} {todo : List Micro} {finish : Finish}
    (h : ∀ m ∈ todo, m.stores s.cfg.regmap = []) : s.StoresBy i (s.launch i f todo finish) :=
  State.storesBy_launch fun m hm => h m hm ▸ List.nil_subset _

theorem State.storesBy_registerRead (i : Instr) (s : State) (a : Addr) (n : Nat) :
    s.StoresBy i (s.registerRead i a n) := by
  rw [State.registerRead]
  split
  · exact State.storesBy_of_env_eq rfl
  · exact State.storesBy_launch_reads (List.forall_mem_singleton.mpr rfl)

theorem State.storesBy_registerWrite {i : Instr} {s : State} {a : Addr} (ha : a ∈ i.stores s.cfg.regmap) (v : Byte) :
    s.StoresBy i (s.registerWrite i a v) :=
  State.storesBy_launch (List.forall_mem_singleton.mpr (List.cons_subset.mpr ⟨ha, List.nil_subset _⟩))

theorem State.storesBy_acquire (i : Instr) (s : State) (n : Nat) (finish : Finish) :
    s.StoresBy i (s.acquire i n finish) := by
  rw [State.acquire]
  split
  · exact State.storesBy_of_env_eq rfl
  · exact State.storesBy_launch_reads (s := s.setAcc []) (List.forall_mem_singleton.mpr rfl)

/-- The three axes behind the ready line (R194). -/
theorem State.storesBy_triplet (i : Instr) (s : State) (t : Ticks) (finish : Finish) :
    s.StoresBy i (s.launch i .waitingReady (tripletSequence t) finish) :=
  State.storesBy_launch_reads (by simp [tripletSequence, Micro.stores])

theorem stores_of_mem_stopSequence {rm : RegMap} : ∀ m ∈ stopSequence, m.stores rm ⊆ [rm.powerCtl] := by
  simp [stopSequence, Micro.stores]

theorem stores_of_mem_startSequence {rm : RegMap} : ∀ m ∈ startSequence, m.stores rm ⊆ [rm.powerCtl] := by
  simp [startSequence, Micro.stores]

theorem stores_of_mem_rangeSequence {row : RangeRow} {rm : RegMap} :
    ∀ m ∈ rangeSequence row, m.stores rm ⊆ [rm.powerCtl, rm.range] := by
  simp [rangeSequence, stopSequence, startSequence, Micro.stores]

theorem stores_of_mem_filterSequence {orow : OdrRow} {hrow : HpfRow} {rm : RegMap} :
    ∀ m ∈ filterSequence orow hrow, m.stores rm ⊆ [rm.powerCtl, rm.filter] := by
  simp [filterSequence, stopSequence, startSequence, Micro.stores]

/-- The two parts of a configuration (R158). -/
theorem stores_of_mem_configuration {row : RangeRow} {orow : OdrRow} {hrow : HpfRow} {rm : RegMap} :
    ∀ m ∈ rangeSequence row ++ filterSequence orow hrow, m.stores rm ⊆ [rm.powerCtl, rm.range, rm.filter] := by
  refine List.forall_mem_append.mpr ⟨fun m hm => ?_, fun m hm => ?_⟩
  · exact List.Subset.trans (stores_of_mem_rangeSequence m hm) (by simp)
  · exact List.Subset.trans (stores_of_mem_filterSequence m hm) (by simp)

/-- A busy core stays as it is, an idle one does what the operation does (R246). -/
theorem State.storesBy_accept {i : Instr} {s t : State} {k : State → State} (h : s.accept k = .next t)
    (hk : ∀ u : State, u.StoresBy i (k u)) : s.StoresBy i t := by
  by_cases hfsm : s.fsm = .idle
  · rw [State.accept_idle hfsm, Host.Outcome.next.injEq] at h
    exact h ▸ hk s.begin
  · rw [State.accept_busy hfsm, Host.Outcome.next.injEq] at h
    exact State.storesBy_of_env_eq (h ▸ rfl)

/-- Every operation changes no device register but those it writes. -/
theorem exec_storesBy {i : Instr} {s t : State} (h : exec i s = .next t) : s.StoresBy i t := by
  cases i <;> rw [exec] at h
  case encWr | decRaw20 | sext20 | toG => exact State.storesBy_accept h fun u => State.storesBy_of_env_eq rfl
  case encRd | decRsp =>
    refine State.storesBy_accept h fun u => ?_
    split <;> exact State.storesBy_of_env_eq rfl
  case regRd =>
    refine State.storesBy_accept h fun u => ?_
    split
    · exact State.storesBy_of_env_eq rfl
    · split
      · exact State.storesBy_registerRead ..
      · exact State.storesBy_of_env_eq rfl
  case regWr =>
    refine State.storesBy_accept h fun u => ?_
    split
    · exact State.storesBy_registerWrite (List.mem_singleton.mpr rfl) _
    · exact State.storesBy_of_env_eq rfl
  case frameRd | rd1DevidAd | rd1DevidMst | rd1Partid | rd1Status | rd3Xdata | rd3Ydata | rd3Zdata | rd3FifoData |
      rd1Range | rd1PowerCtl =>
    exact State.storesBy_accept h fun u => State.storesBy_registerRead ..
  case frameWr | wrFilter | wrRange | wrPowerCtl =>
    exact State.storesBy_accept h fun u => State.storesBy_registerWrite (List.mem_singleton.mpr rfl) _
  case start => exact State.storesBy_accept h fun u => State.storesBy_launch stores_of_mem_startSequence
  case stop => exact State.storesBy_accept h fun u => State.storesBy_launch stores_of_mem_stopSequence
  case status | identify | waitReady | drainFifo =>
    refine State.storesBy_accept h fun u => State.storesBy_launch_reads ?_
    simp [Micro.stores]
  case setRange =>
    refine State.storesBy_accept h fun u => ?_
    split
    · exact State.storesBy_of_env_eq rfl
    · exact State.storesBy_launch stores_of_mem_rangeSequence
  case setFilter =>
    refine State.storesBy_accept h fun u => ?_
    split
    · exact State.storesBy_of_env_eq rfl
    · split
      · exact State.storesBy_of_env_eq rfl
      · exact State.storesBy_launch stores_of_mem_filterSequence
  case configure =>
    refine State.storesBy_accept h fun u => ?_
    split
    · exact State.storesBy_of_env_eq rfl
    · split
      · exact State.storesBy_of_env_eq rfl
      · split
        · exact State.storesBy_of_env_eq rfl
        · exact State.storesBy_launch stores_of_mem_configuration
  case rdAxisRaw =>
    refine State.storesBy_accept h fun u => ?_
    split
    · exact State.storesBy_of_env_eq rfl
    · exact State.storesBy_launch_reads (List.forall_mem_singleton.mpr rfl)
  case rdAxisTriplet | rdTripletRaw => exact State.storesBy_accept h fun u => State.storesBy_triplet ..
  case rdTripletG =>
    refine State.storesBy_accept h fun u => ?_
    split
    · exact State.storesBy_of_env_eq rfl
    · exact State.storesBy_triplet ..
  case acqN | rdBurstRaw => exact State.storesBy_accept h fun u => State.storesBy_acquire ..
  case rdBurstG =>
    refine State.storesBy_accept h fun u => ?_
    split
    · exact State.storesBy_of_env_eq rfl
    · exact State.storesBy_acquire ..

/-- Settles O57: the device of the state before is the one `Env.WritesOnly` speaks of. -/
theorem onlyStoredBytesChange : Obligations.OnlyStoredBytesChange := by
  intro i s t d d' h hd hd' a ha
  obtain ⟨d₀, hd₀, hread⟩ := (exec_storesBy h).device d' hd'
  cases hd.symm.trans hd₀
  exact hread a ha

end Sys2Proof.Machine
end

section
/-! SUPPORT. An operation whose first transaction fails (R235, R240, R241): it ends in the step that takes it. -/

namespace Sys2Proof.Machine

/-! ### Operations by what they launch -/

section
variable {s : State}

/-- An idle core that takes an operation, by what the operation makes of it behind the clearing of `WARN` (R237). -/
theorem State.accept_eq_next (hidle : s.fsm = .idle) {k : State → State} {t : State} (h : k s.begin = t) :
    s.accept k = .next t := by
  rw [State.accept_idle hidle, h]

theorem exec_stop (hidle : s.fsm = .idle) :
    exec .stop s = .next (s.begin.launch .stop .sequencing stopSequence .none) := by
  rw [exec]
  exact State.accept_idle hidle _

theorem exec_start (hidle : s.fsm = .idle) :
    exec .start s = .next (s.begin.launch .start .sequencing startSequence .none) := by
  rw [exec]
  exact State.accept_idle hidle _

theorem exec_status (hidle : s.fsm = .idle) :
    exec .status s = .next (s.begin.launch .status .sequencing [.byteRd .status] .status) := by
  rw [exec]
  exact State.accept_idle hidle _

theorem exec_identify (hidle : s.fsm = .idle) :
    exec .identify s = .next (s.begin.launch .identify .sequencing
      [.byteRd .devidAd, .byteRd .devidMst, .byteRd .partid] .identify) := by
  rw [exec]
  exact State.accept_idle hidle _

theorem exec_drainFifo (hidle : s.fsm = .idle) :
    exec .drainFifo s = .next (s.begin.launch .drainFifo .draining [.fifoX] .drained) := by
  rw [exec]
  exact State.accept_idle hidle _

theorem exec_acqN (hidle : s.fsm = .idle) (n : Nat) :
    exec (.acqN n) s = .next (s.begin.acquire (.acqN n) n (.acquired n)) := by
  rw [exec]
  exact State.accept_idle hidle _

theorem exec_rdBurstRaw (hidle : s.fsm = .idle) (n : Nat) :
    exec (.rdBurstRaw n) s = .next (s.begin.acquire (.rdBurstRaw n) n (.burst n)) := by
  rw [exec]
  exact State.accept_idle hidle _

theorem exec_regRd_documented (hidle : s.fsm = .idle) {a : Addr} {n : Nat} (hn : n ≠ 0)
    (ha : documented s.cfg.regmap a = true) :
    exec (.regRd a n) s = .next (s.begin.launch (.regRd a n) .sequencing [.regRd a n] .bytes) := by
  rw [exec]
  refine State.accept_eq_next hidle ?_
  simp [hn, ha, State.registerRead_pos]

theorem exec_regWr_documented (hidle : s.fsm = .idle) {a : Addr} (v : Byte) (ha : documented s.cfg.regmap a = true) :
    exec (.regWr a v) s = .next (s.begin.launch (.regWr a v) .sequencing [.regWr a v] .none) := by
  rw [exec]
  refine State.accept_eq_next hidle ?_
  simp [ha, State.registerWrite]

theorem exec_setRange_of_lookup (hidle : s.fsm = .idle) {d : Decimal} {row : RangeRow}
    (hrow : lookupRange s.cfg.rangeTable d = some row) :
    exec (.setRange d) s = .next (s.begin.launch (.setRange d) .sequencing (rangeSequence row) .none) := by
  rw [exec]
  refine State.accept_eq_next hidle ?_
  simp [hrow]

theorem exec_setFilter_of_lookup (hidle : s.fsm = .idle) {odr : Decimal} {hpf : Int} {orow : OdrRow} {hrow : HpfRow}
    (horow : lookupOdr s.cfg.odrTable odr = some orow) (hhrow : lookupHpf s.cfg.hpfTable hpf = some hrow) :
    exec (.setFilter odr hpf) s =
      .next (s.begin.launch (.setFilter odr hpf) .sequencing (filterSequence orow hrow) .none) := by
  rw [exec]
  refine State.accept_eq_next hidle ?_
  simp [horow, hhrow]

theorem exec_configure_of_lookup (hidle : s.fsm = .idle) {d odr : Decimal} {hpf : Int} {row : RangeRow} {orow : OdrRow}
    {hrow : HpfRow} (hd : lookupRange s.cfg.rangeTable d = some row)
    (horow : lookupOdr s.cfg.odrTable odr = some orow) (hhrow : lookupHpf s.cfg.hpfTable hpf = some hrow) :
    exec (.configure d odr hpf) s = .next (s.begin.launch (.configure d odr hpf) .sequencing
      (rangeSequence row ++ filterSequence orow hrow) .none) := by
  rw [exec]
  refine State.accept_eq_next hidle ?_
  simp [hd, horow, hhrow]

theorem exec_rdAxisRaw_of_selector (hidle : s.fsm = .idle) {b : Byte} {ax : Axis} (hax : axisOfSelector b = some ax) :
    exec (.rdAxisRaw b) s = .next (s.begin.launch (.rdAxisRaw b) .reading [.axisRd ax] .axis) := by
  rw [exec]
  refine State.accept_eq_next hidle ?_
  simp [hax]

/-- A burst of at least one sample, behind the clearing of `ACC` (R200). -/
theorem State.acquire_pos (s : State) (i : Instr) {n : Nat} (hn : n ≠ 0) (finish : Finish) :
    s.acquire i n finish = (s.setAcc []).launch i .draining [.acqTest n] finish := if_neg hn

theorem exec_rdBurstG_of_scale (hidle : s.fsm = .idle) {scale : Number} (hscale : s.scale = some scale) (n : Nat) :
    exec (.rdBurstG n) s = .next (s.begin.acquire (.rdBurstG n) n (.burstG n scale)) := by
  rw [exec]
  refine State.accept_eq_next hidle ?_
  simp [hscale]

end

/-! ### A first position that fails -/

/-- The position `m`, with the calls of `s` before it, leads to the environment `e` and raises `x`. -/
def Micro.Fails (m : Micro) (s : State) (e : Env) (x : Raise) : Prop :=
  ∀ (r : Running) (u : State), u.cfg = s.cfg → u.env = s.env → m.run r u = (u.withEnv e).raise x.1 x.2

section
variable {s : State} {e : Env} {x : Raise} {m : Micro}

theorem Micro.fails_of_busRead {addr : RegMap → Addr} {n : Nat} {k : Running → List Byte → State → State}
    (hm : ∀ r u, m.run r u = u.busRead (addr u.cfg.regmap) n (k r))
    (h : s.env.regRead s.cfg.regmap (addr s.cfg.regmap) n = (e, .error x)) : m.Fails s e x := by
  intro r u hcfg henv
  rw [hm]
  exact State.busRead_error (by rw [hcfg, henv, h])

theorem Micro.regWr_fails {a : Addr} {v : Byte} (h : s.env.regWrite s.cfg.regmap a v = (e, .error x)) :
    (Micro.regWr a v).Fails s e x := by
  intro r u hcfg henv
  rw [Micro.run]
  exact State.busWrite_error (by rw [hcfg, henv, h])

theorem Micro.regRd_fails {a : Addr} {n : Nat} (h : s.env.regRead s.cfg.regmap a n = (e, .error x)) :
    (Micro.regRd a n).Fails s e x :=
  Micro.fails_of_busRead (addr := fun _ => a) (fun _ _ => by rw [Micro.run]) h

theorem Micro.stopRd_fails (h : s.env.regRead s.cfg.regmap s.cfg.regmap.powerCtl 1 = (e, .error x)) :
    Micro.stopRd.Fails s e x :=
  Micro.fails_of_busRead (fun _ _ => by rw [Micro.run]) h

theorem Micro.startRd_fails (h : s.env.regRead s.cfg.regmap s.cfg.regmap.powerCtl 1 = (e, .error x)) :
    Micro.startRd.Fails s e x :=
  Micro.fails_of_busRead (fun _ _ => by rw [Micro.run]) h

theorem Micro.byteRd_fails {name : RegName}
    (h : s.env.regRead s.cfg.regmap (s.cfg.regmap.addr name) 1 = (e, .error x)) : (Micro.byteRd name).Fails s e x :=
  Micro.fails_of_busRead (addr := (·.addr name)) (fun _ _ => by rw [Micro.run]) h

theorem Micro.axisRd_fails {ax : Axis}
    (h : s.env.regRead s.cfg.regmap (firstDataRegister s.cfg.regmap ax) 3 = (e, .error x)) :
    (Micro.axisRd ax).Fails s e x :=
  Micro.fails_of_busRead (addr := (firstDataRegister · ax)) (fun _ _ => by rw [Micro.run]) h

/-- The X-slot read of a drain that fails (R198). -/
theorem Micro.run_fifoX_of_error {u : State} {r : Running}
    (h : u.env.regRead u.cfg.regmap u.cfg.regmap.fifoData 3 = (e, .error x)) :
    Micro.fifoX.run r u = ((u.setSlot .x).withEnv e).raise x.1 x.2 := by
  rw [Micro.run]
  exact State.busRead_error h

/-- The test of the loop of a burst that has not come to its end (R200). -/
theorem Micro.run_acqTest_of_lt {u : State} {r : Running} {n : Nat} (h : u.acc.length < n) :
    (Micro.acqTest n).run r u = u.goOn { r with todo := .fifoX :: .accumulate :: .acqTest n :: r.todo } :=
  if_pos h

/-! ### An operation whose first position fails -/

/-- A raise outside a drain, at a core that took the operation in `s` (R240, R241). -/
theorem State.raise_eq_raised (s : State) {f : Fsm} (hf : f ≠ .draining) (r : Running) (e : Env) (x : Raise) :
    (((s.begin.setFsm f).goOn r).withEnv e).raise x.1 x.2 = s.raised e x.1 x.2 := by
  simp [State.raise, State.raised, State.withEnv, State.goOn, State.setFsm, State.begin, hf]

/-- An operation outside a drain whose first position fails. -/
theorem State.launch_of_fails (hm : m.Fails s e x) {f : Fsm} (hf : f ≠ .draining) (hfuel : s.fuel ≠ 0) (i : Instr)
    (rest : List Micro) (finish : Finish) : s.begin.launch i f (m :: rest) finish = s.raised e x.1 x.2 := by
  obtain ⟨k, hk⟩ := Nat.exists_eq_succ_of_ne_zero hfuel
  have first : ((s.begin.setFsm f).goOn ⟨i, m :: rest, finish, [], [], []⟩).tick = s.raised e x.1 x.2 := by
    rw [State.tick_cons rfl rfl, hm _ ((s.begin.setFsm f).goOn _) rfl rfl, State.raise_eq_raised s hf]
  rw [State.launch, State.begin_fuel, hk, State.run_succ, first, State.run_none k rfl]

theorem State.launch_drain_of_error (hfuel : s.fuel ≠ 0)
    (h : s.env.regRead s.cfg.regmap s.cfg.regmap.fifoData 3 = (e, .error x)) (i : Instr) (rest : List Micro)
    (finish : Finish) :
    s.begin.launch i .draining (.fifoX :: rest) finish = { s.raised e x.1 x.2 with slot := .x } := by
  obtain ⟨k, hk⟩ := Nat.exists_eq_succ_of_ne_zero hfuel
  have first : ((s.begin.setFsm .draining).goOn ⟨i, .fifoX :: rest, finish, [], [], []⟩).tick =
      { s.raised e x.1 x.2 with slot := .x } := by
    rw [State.tick_cons rfl rfl, Micro.run_fifoX_of_error (u := (s.begin.setFsm .draining).goOn _) h]
    rfl
  rw [State.launch, State.begin_fuel, hk, State.run_succ, first, State.run_none k rfl]

/-- A burst whose first X-slot read fails: behind the test of its loop (R200). -/
theorem State.acquire_of_error (hfuel : 2 ≤ s.fuel)
    (h : s.env.regRead s.cfg.regmap s.cfg.regmap.fifoData 3 = (e, .error x)) (i : Instr) {n : Nat} (hn : n ≠ 0)
    (finish : Finish) :
    s.begin.acquire i n finish = { s.raised e x.1 x.2 with acc := [], slot := .x } := by
  obtain ⟨k, hk⟩ := Nat.exists_eq_add_of_le' hfuel
  have test : (((s.begin.setAcc []).setFsm .draining).goOn ⟨i, [.acqTest n], finish, [], [], []⟩).tick =
      ((s.begin.setAcc []).setFsm .draining).goOn ⟨i, [.fifoX, .accumulate, .acqTest n], finish, [], [], []⟩ := by
    rw [State.tick_cons rfl rfl,
      Micro.run_acqTest_of_lt (u := ((s.begin.setAcc []).setFsm .draining).goOn _) (Nat.pos_of_ne_zero hn)]
    rfl
  have first : (((s.begin.setAcc []).setFsm .draining).goOn
      ⟨i, [.fifoX, .accumulate, .acqTest n], finish, [], [], []⟩).tick =
        { s.raised e x.1 x.2 with acc := [], slot := .x } := by
    rw [State.tick_cons rfl rfl,
      Micro.run_fifoX_of_error (u := ((s.begin.setAcc []).setFsm .draining).goOn _) h]
    rfl
  rw [State.acquire_pos _ i hn, State.launch, State.setAcc_fuel, State.begin_fuel, hk, State.run_succ, State.run_succ,
    test, first, State.run_none k rfl]

/-- A register read as a whole operation, refused or failing (R60, R66). -/
theorem State.registerRead_of_error (hidle : s.fsm = .idle) (hfuel : s.fuel ≠ 0) {a : Addr} {n : Nat}
    (h : s.env.regRead s.cfg.regmap a n = (e, .error x)) (i : Instr) :
    s.begin.registerRead i a n = s.raised e x.1 x.2 := by
  by_cases hn : n = 0
  · subst hn
    cases (Env.regRead_zero ..).symm.trans h
    simp [State.registerRead_zero, State.raise, State.raised, State.begin, hidle]
  · rw [State.registerRead_pos _ i a hn]
    exact State.launch_of_fails (Micro.regRd_fails h) (by decide) hfuel ..

/-- A register write as a whole operation, failing (R60, R67). -/
theorem State.registerWrite_of_error (hfuel : s.fuel ≠ 0) {a : Addr} {v : Byte}
    (h : s.env.regWrite s.cfg.regmap a v = (e, .error x)) (i : Instr) :
    s.begin.registerWrite i a v = s.raised e x.1 x.2 :=
  State.launch_of_fails (Micro.regWr_fails h) (by decide) hfuel ..

end

/-! ### The frames (R101) -/

/-- The read frames with a name of their own, as address and length (R101). -/
def namedReads : List (Instr × Addr × Nat) :=
  [(.rd1DevidAd, 0x00, 1), (.rd1DevidMst, 0x01, 1), (.rd1Partid, 0x02, 1), (.rd1Status, 0x04, 1), (.rd3Xdata, 0x08, 3),
   (.rd3Ydata, 0x0B, 3), (.rd3Zdata, 0x0E, 3), (.rd3FifoData, 0x11, 3), (.rd1Range, 0x2C, 1), (.rd1PowerCtl, 0x2D, 1)]

/-- The frames that write `v`, the generic one at the address `a` (R92, R101). -/
def writeFrames (a : Addr) (v : Byte) : List (Instr × Addr) :=
  [(.frameWr a v, a), (.wrFilter v, 0x28), (.wrRange v, 0x2C), (.wrPowerCtl v, 0x2D)]

/-- A read frame runs as the register read it is the frame of (R66). -/
theorem exec_readFrame {i : Instr} {a : Addr} {n : Nat} (hi : i = .frameRd a n ∨ (i, a, n) ∈ namedReads) (s : State) :
    exec i s = s.accept fun u => u.registerRead i a n := by
  rcases hi with rfl | hi
  · rfl
  · simp only [namedReads, List.mem_cons, Prod.mk.injEq, List.not_mem_nil, or_false] at hi
    rcases hi with ⟨rfl, rfl, rfl⟩ | ⟨rfl, rfl, rfl⟩ | ⟨rfl, rfl, rfl⟩ | ⟨rfl, rfl, rfl⟩ | ⟨rfl, rfl, rfl⟩ |
      ⟨rfl, rfl, rfl⟩ | ⟨rfl, rfl, rfl⟩ | ⟨rfl, rfl, rfl⟩ | ⟨rfl, rfl, rfl⟩ | ⟨rfl, rfl, rfl⟩ <;> rfl

/-- A write frame runs as the register write it is the frame of (R67). -/
theorem exec_writeFrame {i : Instr} {a : Addr} {v : Byte} (hi : (i, a) ∈ writeFrames a v) (s : State) :
    exec i s = s.accept fun u => u.registerWrite i a v := by
  simp only [writeFrames, List.mem_cons, Prod.mk.injEq, List.not_mem_nil, or_false] at hi
  rcases hi with ⟨rfl, -⟩ | ⟨rfl, rfl⟩ | ⟨rfl, rfl⟩ | ⟨rfl, rfl⟩ <;> rfl

/-- The three selectors with the first data register of their axis (R102). -/
theorem axisOfSelector_of_mem {rm : RegMap} {b : Byte} {a : Addr}
    (h : (b, a) ∈ [((0 : Byte), rm.xdata3), (1, rm.ydata3), (2, rm.zdata3)]) :
    ∃ ax, axisOfSelector b = some ax ∧ firstDataRegister rm ax = a := by
  simp only [List.mem_cons, Prod.mk.injEq, List.not_mem_nil, or_false] at h
  rcases h with ⟨rfl, rfl⟩ | ⟨rfl, rfl⟩ | ⟨rfl, rfl⟩
  · exact ⟨.x, rfl, rfl⟩
  · exact ⟨.y, rfl, rfl⟩
  · exact ⟨.z, rfl, rfl⟩

/-! ### The obligation -/

/-- The configuration operations whose first transaction, the read of `POWER_CTL`, fails. -/
theorem exec_configuration_of_error {s : State} {e : Env} {x : Raise} (hidle : s.fsm = .idle) (hfuel : s.fuel ≠ 0)
    (h : s.env.regRead s.cfg.regmap s.cfg.regmap.powerCtl 1 = (e, .error x)) :
    exec .stop s = .next (s.raised e x.1 x.2) ∧ exec .start s = .next (s.raised e x.1 x.2) ∧
    (∀ d row, lookupRange s.cfg.rangeTable d = some row → exec (.setRange d) s = .next (s.raised e x.1 x.2)) ∧
    (∀ odr hpf orow hrow, lookupOdr s.cfg.odrTable odr = some orow → lookupHpf s.cfg.hpfTable hpf = some hrow →
      exec (.setFilter odr hpf) s = .next (s.raised e x.1 x.2) ∧
      ∀ d row, lookupRange s.cfg.rangeTable d = some row →
        exec (.configure d odr hpf) s = .next (s.raised e x.1 x.2)) := by
  have stops : ∀ (i : Instr) (rest : List Micro) (finish : Finish),
      s.begin.launch i .sequencing (.stopRd :: rest) finish = s.raised e x.1 x.2 :=
    State.launch_of_fails (Micro.stopRd_fails h) (by decide) hfuel
  have starts : ∀ (i : Instr) (rest : List Micro) (finish : Finish),
      s.begin.launch i .sequencing (.startRd :: rest) finish = s.raised e x.1 x.2 :=
    State.launch_of_fails (Micro.startRd_fails h) (by decide) hfuel
  refine ⟨(exec_stop hidle).trans (congrArg _ (stops ..)), (exec_start hidle).trans (congrArg _ (starts ..)),
    fun d row hd => ?_, fun odr hpf orow hrow horow hhrow => ⟨?_, fun d row hd => ?_⟩⟩
  · exact (exec_setRange_of_lookup hidle hd).trans (congrArg _ (stops ..))
  · exact (exec_setFilter_of_lookup hidle horow hhrow).trans (congrArg _ (stops ..))
  · exact (exec_configure_of_lookup hidle hd horow hhrow).trans (congrArg _ (stops ..))

/-- Settles O60: each operation by its first position, which fails; a burst behind the test of its loop. -/
theorem firstFailureEndsTheOperation : Obligations.FirstFailureEndsTheOperation := by
  intro s e x hidle hfuel
  have hfuel0 : s.fuel ≠ 0 := by omega
  refine ⟨fun a n hn ha h => ?_, fun a v ha h => ?_, exec_configuration_of_error hidle hfuel0, fun h => ?_, fun h => ?_,
    fun b a hb h => ?_, fun h => ⟨?_, fun n hn => ?_⟩, fun i a n hi h => ?_, fun i a v hi h => ?_⟩
  · rw [exec_regRd_documented hidle (Nat.one_le_iff_ne_zero.mp hn) ha,
      State.launch_of_fails (Micro.regRd_fails h) (by decide) hfuel0]
  · rw [exec_regWr_documented hidle v ha, State.launch_of_fails (Micro.regWr_fails h) (by decide) hfuel0]
  · rw [exec_status hidle, State.launch_of_fails (Micro.byteRd_fails (name := .status) h) (by decide) hfuel0]
  · rw [exec_identify hidle, State.launch_of_fails (Micro.byteRd_fails (name := .devidAd) h) (by decide) hfuel0]
  · obtain ⟨ax, hax, rfl⟩ := axisOfSelector_of_mem hb
    rw [exec_rdAxisRaw_of_selector hidle hax, State.launch_of_fails (Micro.axisRd_fails h) (by decide) hfuel0]
  · rw [exec_drainFifo hidle, State.launch_drain_of_error hfuel0 h]
  · have burst : ∀ (i : Instr) (finish : Finish),
        s.begin.acquire i n finish = { s.raised e x.1 x.2 with acc := [], slot := .x } := fun i =>
      State.acquire_of_error hfuel h i (Nat.one_le_iff_ne_zero.mp hn)
    refine ⟨?_, ?_, fun hscale => ?_⟩
    · rw [exec_acqN hidle, burst]
    · rw [exec_rdBurstRaw hidle, burst]
    · obtain ⟨scale, hscale⟩ := Option.ne_none_iff_exists'.mp hscale
      rw [exec_rdBurstG_of_scale hidle hscale, burst]
  · exact (exec_readFrame hi s).trans (State.accept_eq_next hidle (State.registerRead_of_error hidle hfuel0 h i))
  · exact (exec_writeFrame hi s).trans (State.accept_eq_next hidle (State.registerWrite_of_error hfuel0 h i))

end Sys2Proof.Machine
end

section
/-! SUPPORT. The operand layout of the command port at the end of a request, and the three bytes of a raw sample: what is put
is what is taken. -/

namespace Sys2Proof.Codec

/-- With nothing left over an operation is whole. -/
@[simp] theorem whole_nil (i : Instr) : whole i [] = .ok i := rfl

@[simp] theorem takeNat_putNat_end (n : Nat) : takeNat (putNat n) = .ok (n, []) := by
  simpa using takeNat_putNat n []

@[simp] theorem takeInt_putInt_end (v : Int) : takeInt (putInt v) = .ok (v, []) := by
  simpa using takeInt_putInt v []

@[simp] theorem takeDecimal_putDecimal_end (d : Decimal) : takeDecimal (putDecimal d) = .ok (d, []) := by
  simpa using takeDecimal_putDecimal d []

@[simp] theorem takeBytes_putBytes_end (l : List Byte) : takeBytes (putBytes l) = .ok (l, []) := by
  simpa using takeBytes_putBytes l []

theorem takeNum_putNum_end {n : Numerics} {q : Number} (h : q.isOf n = true) : takeNum n (putNum q) = .ok (q, []) := by
  simpa using takeNum_putNum h []

/-- The high byte of a raw sample has the four bits that are left of it. -/
theorem toNat_putRaw20_high (r : Raw20) : (r.extractLsb' 16 8 &&& 0x0F).toNat = r.toNat / 65536 := by
  have hlt := r.isLt
  have mask : (0x0F : Byte).toNat = 2 ^ 4 - 1 := rfl
  rw [BitVec.toNat_and, mask, Nat.and_two_pow_sub_one_eq_mod, BitVec.extractLsb'_toNat, Nat.shiftRight_eq_div_pow]
  omega

/-- The three bytes of a raw sample spell it (R68). -/
theorem bigEndian_putRaw20 (r : Raw20) : bigEndian (putRaw20 r) = r.toNat := by
  have hlt := r.isLt
  simp only [bigEndian, putRaw20, List.foldl, toNat_putRaw20_high, BitVec.extractLsb'_toNat, Nat.shiftRight_eq_div_pow]
  omega

@[simp] theorem takeRaw20_putRaw20 (r : Raw20) : takeRaw20 (putRaw20 r) = .ok (r, []) := by
  have three : takeCount 3 (putRaw20 r) = .ok (putRaw20 r, []) := rfl
  have hlt : r.toNat < 2 ^ 20 := r.isLt
  simp only [takeRaw20, three, bind, Except.bind, pure, Except.pure, bigEndian_putRaw20, hlt, if_true,
    BitVec.ofNat_toNat, BitVec.setWidth_eq]

end Sys2Proof.Codec
end

section
/-! SUPPORT. Encoding an operation and decoding the request gives the operation back: by its operands on the command port
(R112, R113), by its frame on the wire (R91, R92, R101). -/

namespace Sys2Proof
open Codec

/-- A read frame that R101 does not name stands for the generic term. -/
theorem readInstr_of_not_mem {a : Addr} {n : Nat} (h : (a, n) ∉ concreteReads) : readInstr a n = .frameRd a n := by
  have ha : a = BitVec.ofNat 7 a.toNat := by simp
  unfold readInstr
  split
  case h_11 => rfl
  all_goals
    rename_i hnamed
    rw [hnamed] at ha
    subst ha
    exact absurd (by decide) h

/-- A write frame that R101 does not name stands for the generic term. -/
theorem writeInstr_of_not_mem {a : Addr} (v : Byte) (h : a ∉ concreteWrites) : writeInstr a v = .frameWr a v := by
  have ha : a = BitVec.ofNat 7 a.toNat := by simp
  unfold writeInstr
  split
  case h_4 => rfl
  all_goals
    rename_i hnamed
    rw [hnamed] at ha
    subst ha
    exact absurd (by decide) h

theorem decodeFrame_readFrame (a : Addr) {n : Nat} (hn : n ≠ 0) :
    decodeFrame (Machine.readFrame a n) = .ok (readInstr a n) := by
  rw [decodeFrame, Machine.parseFrame_readFrame a hn]

theorem decodeFrame_writeFrame (a : Addr) (v : Byte) : decodeFrame (Machine.writeFrame a v) = .ok (writeInstr a v) := by
  rw [decodeFrame, Machine.parseFrame_writeFrame]

/-- Settles O1: the command port by what each operand's bytes are taken back as, the wire by the frame read back. -/
theorem encodeThenDecode : Obligations.EncodeThenDecode := by
  intro n i hi
  cases i
  case frameRd a len =>
    simp only [Instr.wellFormed, Bool.and_eq_true, decide_eq_true_eq, Bool.not_eq_true', List.contains_eq_mem,
      decide_eq_false_iff_not] at hi
    obtain ⟨hlen, hmem⟩ := hi
    exact (decodeFrame_readFrame a (Nat.one_le_iff_ne_zero.mp hlen)).trans (congrArg _ (readInstr_of_not_mem hmem))
  case frameWr a v =>
    have hmem : a ∉ concreteWrites := by simpa [Instr.wellFormed] using hi
    exact (decodeFrame_writeFrame a v).trans (congrArg _ (writeInstr_of_not_mem v hmem))
  case rd1DevidAd | rd1DevidMst | rd1Partid | rd1Status | rd3Xdata | rd3Ydata | rd3Zdata | rd3FifoData | rd1Range |
      rd1PowerCtl => rfl
  case wrFilter v => exact decodeFrame_writeFrame 0x28 v
  case wrRange v => exact decodeFrame_writeFrame 0x2C v
  case wrPowerCtl v => exact decodeFrame_writeFrame 0x2D v
  case toG raw f =>
    obtain ⟨hraw, hf⟩ := Bool.and_eq_true_iff.mp hi
    simp [decode, encode, command, decodeCommand, takeInt_putInt, takeNum_putNum_end hf, hraw, bind, Except.bind]
  all_goals
    simp [decode, encode, command, decodeCommand, takeByte, takeAddr_putAddr, takeDecimal_putDecimal, bind, Except.bind]

/-- Settles O4: each of the words is the encoding of its operation. -/
theorem writtenWordsDecode : Obligations.WrittenWordsDecode := fun n =>
  ⟨encodeThenDecode n (.wrPowerCtl 0x01) rfl, encodeThenDecode n .rd3FifoData rfl,
    encodeThenDecode n (.frameRd 0x2F 2) rfl, encodeThenDecode n (.frameWr 0x7F 0xFF) rfl,
    encodeThenDecode n (.regWr 0x2C 0x82) rfl, encodeThenDecode n .stop rfl,
    encodeThenDecode n (.decRaw20 0x12 0x34 0x5F) rfl, encodeThenDecode n (.rdAxisRaw 0x01) rfl,
    encodeThenDecode n .identify rfl, encodeThenDecode .binary64 (.toG 1 (.binary64 0x3ED0624DD2F1A9FC)) rfl⟩

end Sys2Proof
end

section
/-! SUPPORT. Reading a frame back, in numbers (R95): the five shapes a byte sequence can have, and what each reads back
as. -/

namespace Sys2Proof.Machine

theorem getLsbD_zero_eq (c : Byte) : c.getLsbD 0 = decide (c.toNat % 2 = 1) := by revert c; decide

/-- The address in a command byte is the byte without its bit 0 (R90). -/
theorem frameAddr_eq {c : Byte} {a : Addr} (h : c.toNat / 2 = a.toNat) : (c >>> 1).setWidth 7 = a := by
  apply BitVec.eq_of_toNat_eq
  have := a.isLt
  simp only [BitVec.toNat_setWidth, BitVec.toNat_ushiftRight, Nat.shiftRight_eq_div_pow]
  omega

/-- The shapes a byte sequence can have, each with what it reads back as. -/
inductive FrameShape : Frame → FrameRequest → Prop
  | empty : FrameShape [] .invalid
  | loneOdd {c : Byte} (hc : c.toNat % 2 = 1) : FrameShape [c] .invalid
  | read {c : Byte} {a : Addr} {rest : List Byte} (hc : c.toNat = 2 * a.toNat + 1) (hrest : 1 ≤ rest.length) :
      FrameShape (c :: rest) (.read a rest.length)
  | write {c : Byte} {a : Addr} {v : Byte} (hc : c.toNat = 2 * a.toNat) : FrameShape [c, v] (.write a v)
  | even {c : Byte} {rest : List Byte} (hc : c.toNat % 2 = 0) (hrest : rest.length ≠ 1) :
      FrameShape (c :: rest) .invalid

/-- A shape reads back as it says. -/
theorem FrameShape.parseFrame_eq {f : Frame} {q : FrameRequest} (h : FrameShape f q) : parseFrame f = q := by
  cases h with
  | empty => rfl
  | loneOdd hc => simp only [parseFrame, getLsbD_zero_eq, hc, decide_true, if_true, List.length_nil]
  | @read c a rest hc hrest =>
    have hodd : c.toNat % 2 = 1 := by omega
    have hlen : rest.length ≠ 0 := by omega
    have ha : (c >>> 1).setWidth 7 = a := frameAddr_eq (by omega)
    simp only [parseFrame, getLsbD_zero_eq, hodd, decide_true, if_true, hlen, if_false, ha]
  | @write c a v hc =>
    have heven : ¬ c.toNat % 2 = 1 := by omega
    have ha : (c >>> 1).setWidth 7 = a := frameAddr_eq (by omega)
    simp only [parseFrame, getLsbD_zero_eq, heven, decide_false, Bool.false_eq_true, if_false, ha]
  | @even c rest hc hrest =>
    have heven : ¬ c.toNat % 2 = 1 := by omega
    match rest, hrest with
    | [], _ | _ :: _ :: _, _ => simp only [parseFrame, getLsbD_zero_eq, heven, decide_false, Bool.false_eq_true, if_false]
    | [_], hrest => exact absurd rfl hrest

/-- Every byte sequence has one of the shapes. -/
theorem FrameShape.exists (f : Frame) : ∃ q, FrameShape f q := by
  match f with
  | [] => exact ⟨_, .empty⟩
  | c :: rest =>
    have hlt := c.isLt
    obtain ⟨a, ha⟩ : ∃ a : Addr, a.toNat = c.toNat / 2 := ⟨BitVec.ofNat 7 (c.toNat / 2), by simp; omega⟩
    rcases Nat.mod_two_eq_zero_or_one c.toNat with hc | hc
    · match rest with
      | [v] => exact ⟨_, .write (a := a) (by omega)⟩
      | [] | _ :: _ :: _ => exact ⟨_, .even hc (by simp)⟩
    · match rest with
      | [] => exact ⟨_, .loneOdd hc⟩
      | _ :: _ => exact ⟨_, .read (a := a) (by omega) (by simp)⟩

/-- A byte sequence reads back as a request exactly when it has a shape of that request. -/
theorem parseFrame_eq_iff {f : Frame} {q : FrameRequest} : parseFrame f = q ↔ FrameShape f q := by
  refine ⟨?_, FrameShape.parseFrame_eq⟩
  rintro rfl
  obtain ⟨q, h⟩ := FrameShape.exists f
  exact h.parseFrame_eq ▸ h

theorem parseFrame_eq_read_iff {f : Frame} {a : Addr} {n : Nat} :
    parseFrame f = .read a n ↔ ∃ c rest, f = c :: rest ∧ c.toNat = 2 * a.toNat + 1 ∧ rest.length = n ∧ 1 ≤ n := by
  rw [parseFrame_eq_iff]
  constructor
  · rintro (_ | _ | ⟨hc, hrest⟩)
    exact ⟨_, _, rfl, hc, rfl, hrest⟩
  · rintro ⟨c, rest, rfl, hc, rfl, hrest⟩
    exact .read hc hrest

theorem parseFrame_eq_write_iff {f : Frame} {a : Addr} {v : Byte} :
    parseFrame f = .write a v ↔ ∃ c : Byte, f = [c, v] ∧ c.toNat = 2 * a.toNat := by
  rw [parseFrame_eq_iff]
  constructor
  · rintro (_ | _ | _ | hc)
    exact ⟨_, rfl, hc⟩
  · rintro ⟨c, rfl, hc⟩
    exact .write hc

theorem parseFrame_eq_invalid_iff {f : Frame} : parseFrame f = .invalid ↔
    f = [] ∨ (∃ c : Byte, c.toNat % 2 = 1 ∧ f = [c]) ∨
      ∃ (c : Byte) (l : List Byte), c.toNat % 2 = 0 ∧ f = c :: l ∧ l.length ≠ 1 := by
  rw [parseFrame_eq_iff]
  constructor
  · intro h
    cases h with
    | empty => exact .inl rfl
    | loneOdd hc => exact .inr (.inl ⟨_, hc, rfl⟩)
    | even hc hrest => exact .inr (.inr ⟨_, _, hc, rfl, hrest⟩)
  · rintro (rfl | ⟨c, hc, rfl⟩ | ⟨c, l, hc, rfl, hl⟩)
    · exact .empty
    · exact .loneOdd hc
    · exact .even hc hl

/-! ### The frames of the requests (R91, R92) -/

theorem readCommand_eq_iff {a : Addr} {c : Byte} : readCommand a = c ↔ c.toNat = 2 * a.toNat + 1 := by
  have := a.isLt
  rw [readCommand_eq_ofNat, ← BitVec.toNat_inj, BitVec.toNat_ofNat]
  omega

theorem writeCommand_eq_iff {a : Addr} {c : Byte} : writeCommand a = c ↔ c.toNat = 2 * a.toNat := by
  have := a.isLt
  rw [writeCommand_eq_ofNat, ← BitVec.toNat_inj, BitVec.toNat_ofNat]
  omega

/-- The frame of the write that a byte sequence reads back as is that byte sequence. -/
theorem writeFrame_of_parseFrame {f : Frame} {a : Addr} {v : Byte} (h : parseFrame f = .write a v) :
    writeFrame a v = f := by
  obtain ⟨c, rfl, hc⟩ := parseFrame_eq_write_iff.mp h
  rw [writeFrame, writeCommand_eq_iff.mpr hc]

/-- The frame of the read that a byte sequence reads back as is that byte sequence with zero fillers. -/
theorem readFrame_eq_iff_of_parseFrame {c : Byte} {rest : List Byte} {a : Addr} {n : Nat}
    (h : parseFrame (c :: rest) = .read a n) : readFrame a n = c :: rest ↔ ∀ b ∈ rest, b = 0 := by
  obtain ⟨_, _, ⟨⟩, hc, rfl, -⟩ := parseFrame_eq_read_iff.mp h
  rw [readFrame, readCommand_eq_iff.mpr hc, List.cons_eq_cons, eq_comm (b := rest), List.eq_replicate_iff]
  simp

/-- Settles O3: the shapes of R95 one by one, then the two round trips. -/
theorem framesReadBack : Obligations.FramesReadBack :=
  ⟨fun _ _ _ => parseFrame_eq_read_iff, fun _ _ _ => parseFrame_eq_write_iff, fun _ => parseFrame_eq_invalid_iff,
    fun a _ hn => parseFrame_readFrame a (Nat.one_le_iff_ne_zero.mp hn), parseFrame_writeFrame,
    fun _ _ _ => writeFrame_of_parseFrame, fun _ _ _ _ => readFrame_eq_iff_of_parseFrame⟩

end Sys2Proof.Machine
end

section
/-! SUPPORT. Whatever decodes is well formed (R101, R113, R133): what a decoder can yield, said through its binds. -/

namespace Sys2Proof
open Codec

/-- Every operation that the decoder's answer can be is well formed. -/
def YieldsWellFormed (n : Numerics) (x : Except DecodeError Instr) : Prop := ∀ i, x = .ok i → i.wellFormed n = true

section
variable {n : Numerics}

theorem yields_error (e : DecodeError) : YieldsWellFormed n (.error e) := nofun

theorem yields_ok {i : Instr} (h : i.wellFormed n = true) : YieldsWellFormed n (.ok i) := by
  rintro _ ⟨⟩
  exact h

theorem yields_whole {i : Instr} (h : i.wellFormed n = true) (bs : List Byte) : YieldsWellFormed n (whole i bs) := by
  rw [whole]
  split
  · exact yields_ok h
  · exact yields_error _

/-- A decoder behind the taking of an operand. -/
theorem yields_bind {α : Type} {x : Except DecodeError (α × List Byte)} {f : α × List Byte → Except DecodeError Instr}
    (h : ∀ a bs, x = .ok (a, bs) → YieldsWellFormed n (f (a, bs))) : YieldsWellFormed n (x >>= f) := by
  cases x with
  | error e => exact yields_error e
  | ok taken => exact h taken.1 taken.2 rfl

end

/-- The command port yields well-formed operations: `to_g` has its operands tested, those of the others are in range by
their types. -/
theorem decodeCommand_wellFormed (n : Numerics) (bs : List Byte) : YieldsWellFormed n (decodeCommand n bs) := by
  unfold decodeCommand
  split
  · exact yields_error _
  · split
    case h_6 | h_7 | h_16 | h_17 | h_19 | h_20 | h_23 | h_24 => exact yields_whole rfl _
    case h_3 | h_8 | h_12 | h_14 | h_15 | h_18 | h_21 | h_22 => exact yields_bind fun _ _ _ => yields_whole rfl _
    case h_1 | h_2 | h_4 | h_5 | h_9 =>
      exact yields_bind fun _ _ _ => yields_bind fun _ _ _ => yields_whole rfl _
    case h_10 | h_11 =>
      exact yields_bind fun _ _ _ => yields_bind fun _ _ _ => yields_bind fun _ _ _ => yields_whole rfl _
    case h_13 =>
      refine yields_bind fun raw _ _ => yields_bind fun f _ hf => ?_
      dsimp only
      split
      case isTrue hraw => exact yields_whole (i := .toG raw f) (Bool.and_eq_true_iff.mpr ⟨hraw, isOf_of_takeNum hf⟩) _
      case isFalse => exact yields_error _
    case h_25 => exact yields_error _

/-- A read frame of at least one byte stands for a well-formed operation, the named one where R101 has one. -/
theorem readInstr_wellFormed (n : Numerics) (a : Addr) {len : Nat} (hlen : 1 ≤ len) :
    (readInstr a len).wellFormed n = true := by
  by_cases h : (a, len) ∈ concreteReads
  · simp only [concreteReads, List.mem_cons, Prod.mk.injEq, List.not_mem_nil, or_false] at h
    rcases h with ⟨rfl, rfl⟩ | ⟨rfl, rfl⟩ | ⟨rfl, rfl⟩ | ⟨rfl, rfl⟩ | ⟨rfl, rfl⟩ | ⟨rfl, rfl⟩ | ⟨rfl, rfl⟩ | ⟨rfl, rfl⟩ |
      ⟨rfl, rfl⟩ | ⟨rfl, rfl⟩ <;> rfl
  · simp [readInstr_of_not_mem h, Instr.wellFormed, hlen, h]

/-- A write frame stands for a well-formed operation, the named one where R101 has one. -/
theorem writeInstr_wellFormed (n : Numerics) (a : Addr) (v : Byte) : (writeInstr a v).wellFormed n = true := by
  by_cases h : a ∈ concreteWrites
  · simp only [concreteWrites, List.mem_cons, List.not_mem_nil, or_false] at h
    rcases h with rfl | rfl | rfl <;> rfl
  · simp [writeInstr_of_not_mem v h, Instr.wellFormed, h]

/-- A frame that decodes stands for a well-formed operation. -/
theorem decodeFrame_wellFormed (n : Numerics) (f : Frame) : YieldsWellFormed n (decodeFrame f) := by
  unfold decodeFrame
  split
  case h_1 a len h =>
    obtain ⟨_, _, -, -, -, hlen⟩ := Machine.parseFrame_eq_read_iff.mp h
    exact yields_ok (readInstr_wellFormed n a hlen)
  case h_2 a v _ => exact yields_ok (writeInstr_wellFormed n a v)
  case h_3 => exact yields_error _

/-- Settles O2: each channel by its decoder. -/
theorem decodedIsWellFormed : Obligations.DecodedIsWellFormed := by
  intro n r i h
  rw [decode] at h
  cases hchannel : r.channel <;> rw [hchannel] at h
  case command => exact decodeCommand_wellFormed n r.bytes i h
  case wire => exact decodeFrame_wellFormed n r.bytes i h

end Sys2Proof
end

section
/-! SUPPORT. When a step does not end in a next state (R113, R133, R232). -/

namespace Sys2Proof.Machine

/-- Every operation is presented through the command port (R246). -/
theorem exec_eq_accept (i : Instr) (s : State) : ∃ k, exec i s = s.accept k := by
  cases i <;> rw [exec] <;> exact ⟨_, rfl⟩

/-- Every operation presented ends in a next state, whatever the core's state: its errors are results (R231). -/
theorem exec_next (i : Instr) (s : State) : ∃ t, exec i s = .next t := by
  obtain ⟨k, hk⟩ := exec_eq_accept i s
  rw [hk]
  exact State.accept_next s k

/-- A step faults only where `fsm` says busy and `OP` is empty. -/
theorem found_of_step_fault {s : State} {f : Fault} (h : step s = .fault f) : s.found = .lost := by
  unfold step at h
  split at h
  case h_3 hfound => exact hfound
  case h_5 i u _ =>
    obtain ⟨t, ht⟩ := exec_next i u
    cases h.symm.trans ht
  all_goals cases h

/-- A step refuses only what it finds not presentable. -/
theorem found_of_step_refused {s : State} {x : Refusal} (h : step s = .refused x) :
    x = .notPresentable ∧ s.found = .notPresentable := by
  unfold step at h
  split at h
  case h_5 i u _ =>
    obtain ⟨t, ht⟩ := exec_next i u
    cases h.symm.trans ht
  case h_7 hfound =>
    cases h
    exact ⟨rfl, hfound⟩
  all_goals cases h

/-- Under the invariant the sequencer is never lost: with no operation in progress `fsm` is `Idle` (R30). -/
theorem State.Inv.found_ne_lost {s : State} (hs : s.Inv) : s.found ≠ .lost := by
  intro h
  unfold State.found at h
  split at h
  · cases h
  · split at h
    · cases h
    case isFalse hop =>
      have hbusy : s.busy = false := State.busy_eq_false_of_idle (hs.idle.mpr (by simpa using hop))
      rw [hbusy] at h
      simp only [Bool.false_eq_true, if_false] at h
      split at h
      · cases h
      · split at h <;> cases h

/-- What is found not presentable is the first request of the port, and its code, where it has one, is in the table. -/
theorem State.decode_of_found_notPresentable {s : State} (h : s.found = .notPresentable) :
    ∃ r rest e, s.port = r :: rest ∧ decode s.cfg.numerics r = .error e ∧ ∀ c, e ≠ .unknownCode c := by
  unfold State.found at h
  split at h
  · cases h
  · split at h
    · cases h
    · split at h
      · cases h
      · split at h
        · cases h
        case _ r rest hport =>
          split at h
          · cases h
          · cases h
          case _ e hknown hdecode => exact ⟨r, rest, e, hport, hdecode, hknown⟩

/-- Settles O12: of what a step can find, the lost sequencer is excluded by the invariant, and only a request that is not
presentable is refused. -/
theorem stepStopsOnlyOnUnpresentableRequests : Obligations.StepStopsOnlyOnUnpresentableRequests := by
  intro s hs
  refine ⟨fun f h => hs.found_ne_lost (found_of_step_fault h), fun x h => ?_⟩
  obtain ⟨hx, hfound⟩ := found_of_step_refused h
  exact ⟨hx, State.decode_of_found_notPresentable hfound⟩

end Sys2Proof.Machine
end

section
/-! SUPPORT. A frame run as the register access it is the frame of, to its end (R66, R67, R91, R92, R101). -/

namespace Sys2Proof.Machine

/-- An operation of one position that goes on, and then returns, in the step that takes it (R15, R199). -/
theorem State.launch_single_returns {s u : State} {m : Micro} {f : Fsm} {i : Instr} {finish : Finish} {r : Running}
    (hfuel : 2 ≤ s.fuel) (hrun : m.run ⟨i, [], finish, [], [], []⟩ ((s.setFsm f).goOn ⟨i, [m], finish, [], [], []⟩) =
      u.goOn r) (htodo : r.todo = []) : s.launch i f [m] finish = (u.goOn r).complete r := by
  obtain ⟨k, hk⟩ := Nat.exists_eq_add_of_le hfuel
  have first : State.run 1 ((s.setFsm f).goOn ⟨i, [m], finish, [], [], []⟩) = u.goOn r := by
    rw [State.run_succ, State.run_zero, State.tick_cons rfl rfl, hrun]
  rw [State.launch, hk]
  exact State.run_add_none (State.run_done first rfl htodo) rfl

/-- A return behind one answered call of an operation that was taken in `s` (R15). -/
theorem State.deliver_eq_returned (s : State) (f : Fsm) (r r' : Running) (e : Env) (v : Result) :
    ((((s.begin.setFsm f).goOn r).withEnv e).goOn r').deliver v = s.returned e v := by
  simp [State.deliver, State.returned, State.goOn, State.withEnv, State.setFsm, State.begin]

theorem Micro.run_regRd_of_ok {u : State} {e : Env} {a : Addr} {n : Nat} {p : List Byte}
    (h : u.env.regRead u.cfg.regmap a n = (e, .ok p)) (r : Running) :
    (Micro.regRd a n).run r u = (u.withEnv e).goOn { r with bytes := p } := by
  rw [Micro.run]
  exact State.busRead_ok h

theorem Micro.run_regWr_of_ok {u : State} {e : Env} {a : Addr} {v : Byte}
    (h : u.env.regWrite u.cfg.regmap a v = (e, .ok ())) (r : Running) :
    (Micro.regWr a v).run r u = (u.withEnv e).goOn r := by
  rw [Micro.run]
  exact State.busWrite_ok h

/-- A register read as a whole operation, answered with the payload `p` (R66). -/
theorem State.registerRead_of_ok {s : State} {e : Env} {a : Addr} {n : Nat} {p : List Byte} (hfuel : 2 ≤ s.fuel)
    (h : s.env.regRead s.cfg.regmap a n = (e, .ok p)) (i : Instr) :
    s.begin.registerRead i a n = s.returned e (.bytes p) := by
  obtain ⟨hn, -⟩ := Env.regRead_ok h
  have hrun := Micro.run_regRd_of_ok (u := (s.begin.setFsm .sequencing).goOn ⟨i, [.regRd a n], .bytes, [], [], []⟩) h
    ⟨i, [], .bytes, [], [], []⟩
  rw [State.registerRead_pos _ i a hn, State.launch_single_returns (s := s.begin) hfuel hrun rfl, State.complete,
    State.deliver_eq_returned, Finish.result]

/-- A register write as a whole operation, answered (R67). -/
theorem State.registerWrite_of_ok {s : State} {e : Env} {a : Addr} {v : Byte} (hfuel : 2 ≤ s.fuel)
    (h : s.env.regWrite s.cfg.regmap a v = (e, .ok ())) (i : Instr) :
    s.begin.registerWrite i a v = s.returned e .none := by
  have hrun := Micro.run_regWr_of_ok (u := (s.begin.setFsm .sequencing).goOn ⟨i, [.regWr a v], .none, [], [], []⟩) h
    ⟨i, [], .none, [], [], []⟩
  rw [State.registerWrite, State.launch_single_returns (s := s.begin) hfuel hrun rfl, State.complete,
    State.deliver_eq_returned, Finish.result]

/-- Settles O25: a read frame is the register read of its address and length. -/
theorem readFrameResult : Obligations.ReadFrameResult := by
  intro i a n s e p hi hidle hfuel h
  exact (exec_readFrame hi s).trans (State.accept_eq_next hidle (State.registerRead_of_ok hfuel h i))

/-- Settles O26: a write frame is the register write of its address and byte. -/
theorem writeFrameResult : Obligations.WriteFrameResult := by
  intro i a v s e hi hidle hfuel h
  exact (exec_writeFrame hi s).trans (State.accept_eq_next hidle (State.registerWrite_of_ok hfuel h i))

end Sys2Proof.Machine
end

section
/-! SUPPORT. The lookups of the tables (R105 to R107, R153): no two rows of a table have the same number as key, so a lookup
finds exactly the row whose key the operand is. -/

namespace Sys2Proof

/-- Where at most one element of a list has the property, finding it is being it. -/
theorem find?_eq_some_iff_of_unique {α : Type} {p : α → Bool} {l : List α}
    (unique : ∀ a ∈ l, ∀ b ∈ l, p a = true → p b = true → a = b) {a : α} :
    l.find? p = some a ↔ a ∈ l ∧ p a = true := by
  refine ⟨fun h => ⟨List.mem_of_find?_eq_some h, List.find?_some h⟩, fun ⟨ha, hp⟩ => ?_⟩
  obtain ⟨b, hb⟩ := Option.isSome_iff_exists.mp (List.find?_isSome.mpr ⟨a, ha, hp⟩)
  rw [hb, unique b (List.mem_of_find?_eq_some hb) a ha (List.find?_some hb) hp]

theorem Decimal.same_iff {a b : Decimal} : a.same b = true ↔ a.num * 10 ^ b.exp = b.num * 10 ^ a.exp := by
  simp [Decimal.same]

/-- Two decimals that are the same number as a third are the same number. -/
theorem Decimal.same_of_same {a b d : Decimal} (ha : a.same d = true) (hb : b.same d = true) : a.same b = true := by
  rw [Decimal.same_iff] at *
  have hpos : (10 : Int) ^ d.exp ≠ 0 := by positivity
  refine mul_right_cancel₀ hpos ?_
  calc a.num * 10 ^ b.exp * 10 ^ d.exp = d.num * 10 ^ a.exp * 10 ^ b.exp := by rw [← ha]; ring
    _ = b.num * 10 ^ a.exp * 10 ^ d.exp := by rw [mul_right_comm, ← hb]; ring

/-- A row whose key is the operand, by the number that is the operand. -/
theorem eq_and_same_iff {α : Type} {key : α → Decimal} {d : Decimal} {row r : α} :
    row = r ∧ (key row).same d = true ↔ d.num * 10 ^ (key r).exp = (key r).num * 10 ^ d.exp ∧ row = r := by
  rw [Decimal.same_iff, and_comm]
  refine and_congr_left fun h => ?_
  rw [h, eq_comm]

theorem lookupRange_default_iff {d : Decimal} {row : RangeRow} :
    lookupRange defaultRangeTable d = some row ↔ row ∈ defaultRangeTable ∧ row.key.same d = true := by
  have distinct : ∀ a ∈ defaultRangeTable, ∀ b ∈ defaultRangeTable, a.key.same b.key = true → a = b := by decide
  exact find?_eq_some_iff_of_unique fun a ha b hb hda hdb => distinct a ha b hb (Decimal.same_of_same hda hdb)

theorem lookupOdr_default_iff {d : Decimal} {row : OdrRow} :
    lookupOdr defaultOdrTable d = some row ↔ row ∈ defaultOdrTable ∧ row.key.same d = true := by
  have distinct : ∀ a ∈ defaultOdrTable, ∀ b ∈ defaultOdrTable, a.key.same b.key = true → a = b := by decide
  exact find?_eq_some_iff_of_unique fun a ha b hb hda hdb => distinct a ha b hb (Decimal.same_of_same hda hdb)

theorem lookupHpf_default_iff {h : Int} {row : HpfRow} :
    lookupHpf defaultHpfTable h = some row ↔ row ∈ defaultHpfTable ∧ row.key = h := by
  have distinct : ∀ a ∈ defaultHpfTable, ∀ b ∈ defaultHpfTable, a.key = b.key → a = b := by decide
  rw [lookupHpf, find?_eq_some_iff_of_unique, beq_iff_eq]
  intro a ha b hb hda hdb
  exact distinct a ha b hb ((beq_iff_eq.mp hda).trans (beq_iff_eq.mp hdb).symm)

/-- The rows of the filter table are the codes 0 to 6, each with itself as key (R107). -/
theorem mem_defaultHpfTable_iff {row : HpfRow} :
    row ∈ defaultHpfTable ↔ 0 ≤ row.key ∧ row.key ≤ 6 ∧ (row.code.toNat : Int) = row.key := by
  obtain ⟨key, code⟩ := row
  constructor
  · simp only [defaultHpfTable, List.mem_cons, HpfRow.mk.injEq, List.not_mem_nil, or_false]
    rintro (⟨rfl, rfl⟩ | ⟨rfl, rfl⟩ | ⟨rfl, rfl⟩ | ⟨rfl, rfl⟩ | ⟨rfl, rfl⟩ | ⟨rfl, rfl⟩ | ⟨rfl, rfl⟩) <;> decide
  · rintro ⟨-, hmax, hcode⟩
    dsimp only at hmax hcode
    subst hcode
    revert code
    decide

/-- Settles O32: in each table a lookup finds the row whose key is the operand. -/
theorem tablesMatchExactly : Obligations.TablesMatchExactly := by
  refine ⟨fun d row => ?_, fun d row => ?_, fun h row => ?_⟩
  · rw [lookupRange_default_iff]
    simp only [defaultRangeTable, List.mem_cons, List.not_mem_nil, or_false, or_and_right, eq_and_same_iff]
    norm_num
  · rw [lookupOdr_default_iff]
    simp only [defaultOdrTable, List.mem_cons, List.not_mem_nil, or_false, or_and_right, eq_and_same_iff]
    norm_num
  · rw [lookupHpf_default_iff, mem_defaultHpfTable_iff]
    constructor
    · rintro ⟨⟨hmin, hmax, hcode⟩, rfl⟩
      exact ⟨hmin, hmax, rfl, hcode⟩
    · rintro ⟨hmin, hmax, rfl, hcode⟩
      exact ⟨⟨hmin, hmax, hcode⟩, rfl⟩

end Sys2Proof
end

section
/-! SUPPORT. The register values the core writes, in numbers (R97). -/

namespace Sys2Proof.Machine

theorem toNat_rangeValue : ∀ (old : Byte) (code : BitVec 2),
    (rangeValue old code).toNat = old.toNat / 4 * 4 + code.toNat := by decide

theorem toNat_filterValue : ∀ (hpf : BitVec 3) (odr : BitVec 4),
    (filterValue hpf odr).toNat = 16 * hpf.toNat + odr.toNat := by decide

theorem toNat_stopValue : ∀ old : Byte, (stopValue old).toNat = old.toNat / 2 * 2 + 1 := by decide

theorem toNat_startValue : ∀ old : Byte, (startValue old).toNat = old.toNat / 2 * 2 := by decide

/-- Settles O33: each value over all the bytes and codes it is made of. -/
theorem writtenRegisterBits : Obligations.WrittenRegisterBits :=
  ⟨toNat_rangeValue, toNat_filterValue, fun old => ⟨toNat_stopValue old, toNat_startValue old⟩⟩

end Sys2Proof.Machine
end

section
/-! SUPPORT. The calls and registers of an operation depend on its pseudocode alone, and only its result on what it returns
(R114): two operations with the same positions run in step. -/

namespace Sys2Proof.Machine

/-! ### One operation in the place of another -/

/-- The operation `i`, which returns `f`, at the position of `r`. -/
def Running.as (r : Running) (i : Instr) (f : Finish) : Running := { r with instr := i, finish := f }

/-- The core with the operation `i`, which returns `f`, in the place of the one in progress. -/
def State.runningAs (s : State) (i : Instr) (f : Finish) : State := { s with op := s.op.map (·.as i f) }

@[simp] theorem State.runningAs_cfg (s : State) (i : Instr) (f : Finish) : (s.runningAs i f).cfg = s.cfg := rfl
@[simp] theorem State.runningAs_env (s : State) (i : Instr) (f : Finish) : (s.runningAs i f).env = s.env := rfl
@[simp] theorem State.runningAs_acc (s : State) (i : Instr) (f : Finish) : (s.runningAs i f).acc = s.acc := rfl
@[simp] theorem State.runningAs_elapsed (s : State) (i : Instr) (f : Finish) :
    (s.runningAs i f).elapsed = s.elapsed := rfl
@[simp] theorem State.runningAs_op (s : State) (i : Instr) (f : Finish) :
    (s.runningAs i f).op = s.op.map (·.as i f) := rfl

section
variable (i : Instr) (f : Finish)

/-- A core with no operation in progress is the same in the place of any. -/
theorem State.runningAs_of_none {s : State} (h : s.op = none) : s.runningAs i f = s := by
  cases s
  cases h
  rfl

/-- A register read that is followed by the same in the place of the other operation (R235). -/
theorem State.busRead_runningAs {s : State} {a : Addr} {n : Nat} {k k' : List Byte → State → State}
    (hk : ∀ p e, k' p ((s.runningAs i f).withEnv e) = (k p (s.withEnv e)).runningAs i f) :
    (s.runningAs i f).busRead a n k' = (s.busRead a n k).runningAs i f := by
  rcases h : s.env.regRead s.cfg.regmap a n with ⟨e, x | p⟩
  · rw [State.busRead_error h, State.busRead_error (s := s.runningAs i f) h]
    rfl
  · rw [State.busRead_ok h, State.busRead_ok (s := s.runningAs i f) h]
    exact hk p e

/-- A register write inside the other operation. -/
theorem State.busWrite_runningAs (s : State) (a : Addr) (v : Byte) (r : Running) :
    ((s.runningAs i f).busWrite a v fun u => u.goOn (r.as i f)) = (s.busWrite a v fun u => u.goOn r).runningAs i f := by
  rcases h : s.env.regWrite s.cfg.regmap a v with ⟨e, x | ⟨⟩⟩
  · rw [State.busWrite_error h, State.busWrite_error (s := s.runningAs i f) h]
    rfl
  · rw [State.busWrite_ok h, State.busWrite_ok (s := s.runningAs i f) h]
    rfl

/-- A position does the same in the place of the other operation. -/
theorem Micro.run_runningAs (m : Micro) (r : Running) (s : State) :
    m.run (r.as i f) (s.runningAs i f) = (m.run r s).runningAs i f := by
  cases m <;> simp only [Micro.run]
  case stopRd | startRd | rangeRd | regRd | byteRd | axisRd => exact State.busRead_runningAs i f fun _ _ => rfl
  case stopWr | startWr | rangeWr | filterWr | regWr => exact State.busWrite_runningAs i f s _ _ r
  case commitRange | commitFilter | enterReading | accumulate | pollSleep => rfl
  case waitBegin =>
    rcases h : s.cfg.drdyPin with _ | pin <;> simp only [State.setElapsed_cfg, State.runningAs_cfg, h] <;> rfl
  case poll timeout =>
    rcases h : s.env.digitalRead (s.cfg.drdyPin.getD 0) with ⟨e, (_ | _) | info⟩ <;>
      simp only [State.runningAs_env, State.runningAs_cfg, State.runningAs_elapsed, h]
    case level.false => by_cases hlast : timeout ≤ s.elapsed <;> simp only [hlast, if_true, if_false] <;> rfl
    all_goals rfl
  case fifoX =>
    refine State.busRead_runningAs i f (s := s.setSlot .x) fun p e => ?_
    split <;> rfl
  case fifoY => exact State.busRead_runningAs i f (s := s.setSlot .y) fun _ _ => rfl
  case fifoZ => exact State.busRead_runningAs i f (s := s.setSlot .z) fun _ _ => rfl
  case acqTest =>
    rw [State.runningAs_acc]
    split <;> rfl

end

/-- What an operation returns is a matter of the values it holds (R112, R215). -/
theorem Finish.result_as (g : Finish) (r : Running) (i : Instr) (f : Finish) (acc : List FifoTriplet) (n : Numerics)
    (k : Nat) : g.result (r.as i f) acc n k = g.result r acc n k := by
  cases g <;> rfl

/-! ### An operation up to its return -/

/-- Where an operation is still in progress in `t`, none has ended since `s`. -/
def State.NoneEnded (s t : State) : Prop := t.op.isSome → t.freeSeq = s.freeSeq

theorem State.noneEnded_goOn {s u : State} {r : Running} (h : u.freeSeq = s.freeSeq) : s.NoneEnded (u.goOn r) :=
  fun _ => h

theorem State.noneEnded_raise {s u : State} {code : ErrCode} {info : ErrInfo} : s.NoneEnded (u.raise code info) := by
  intro h
  cases h

theorem Micro.run_noneEnded (m : Micro) (r : Running) (s : State) : s.NoneEnded (m.run r s) := by
  cases m <;> simp only [Micro.run]
  case stopRd | startRd | rangeRd | regRd | byteRd | axisRd | fifoY | fifoZ =>
    exact State.busRead_cases (fun _ _ _ => State.noneEnded_goOn rfl) fun _ _ _ => State.noneEnded_raise
  case stopWr | startWr | rangeWr | filterWr | regWr =>
    exact State.busWrite_cases (fun _ _ => State.noneEnded_goOn rfl) fun _ _ _ => State.noneEnded_raise
  case commitRange | commitFilter | enterReading | accumulate | pollSleep => exact State.noneEnded_goOn rfl
  case waitBegin | acqTest => split <;> exact State.noneEnded_goOn rfl
  case poll =>
    split
    · exact State.noneEnded_raise
    · exact State.noneEnded_goOn rfl
    · split
      · exact State.noneEnded_raise
      · exact State.noneEnded_goOn rfl
  case fifoX =>
    refine State.busRead_cases (fun _ _ _ => ?_) fun _ _ _ => State.noneEnded_raise
    split <;> exact State.noneEnded_goOn rfl

/-- The end of the pseudocode in the place of the other operation: its own result, at the same core. -/
theorem State.run_runningAs_of_nil {s : State} {r : Running} (hop : s.op = some r) (htodo : r.todo = []) (k : Nat)
    (i : Instr) (f : Finish) :
    State.run (k + 1) (s.runningAs i f) = s.deliver (f.result r s.acc s.cfg.numerics s.freeSeq) := by
  have hop' : (s.runningAs i f).op = some (r.as i f) := by rw [State.runningAs_op, hop, Option.map_some]
  rw [State.run_succ, State.tick_nil hop' htodo, State.run_none k rfl, State.complete,
    show (r.as i f).finish = f from rfl, Finish.result_as]
  rfl

theorem State.tick_runningAs_of_cons {s : State} {r : Running} {m : Micro} {rest : List Micro} (hop : s.op = some r)
    (htodo : r.todo = m :: rest) (i : Instr) (f : Finish) : (s.runningAs i f).tick = s.tick.runningAs i f := by
  have hop' : (s.runningAs i f).op = some (r.as i f) := by rw [State.runningAs_op, hop, Option.map_some]
  rw [State.tick_cons hop htodo, State.tick_cons hop' htodo]
  exact Micro.run_runningAs i f m { r with todo := rest } s

/-- A run that ends without error ends with a return, at some core `u` behind the last position; with any other operation
in its place it ends there too, with that operation's result of the same values. -/
theorem State.run_returns {s : State} (hop : s.op.isSome) {k : Nat} (hend : (State.run k s).op = none)
    (herr : (State.run k s).err = .ok) : ∃ (u : State) (r : Running), ∀ i f,
      State.run k (s.runningAs i f) = u.deliver (f.result r u.acc s.cfg.numerics s.freeSeq) := by
  induction k generalizing s with
  | zero => simp [State.run_zero s ▸ hend] at hop
  | succ k ih =>
    obtain ⟨r, hr⟩ := Option.isSome_iff_exists.mp hop
    cases htodo : r.todo with
    | nil => exact ⟨s, r, State.run_runningAs_of_nil hr htodo k⟩
    | cons m rest =>
      have htick := State.tick_cons hr htodo
      have goesOn : s.tick.GoesOnOrFailed := htick ▸ Micro.run_goesOn ..
      have noneEnded : s.NoneEnded s.tick := htick ▸ Micro.run_noneEnded m { r with todo := rest } s
      rw [State.run_succ] at hend herr
      rcases goesOn with ⟨r', hr'⟩ | ⟨hnone, -, hfailed⟩
      · have hsome : s.tick.op.isSome := by rw [hr']; rfl
        obtain ⟨u, v, hu⟩ := ih hsome hend herr
        refine ⟨u, v, fun i f => ?_⟩
        rw [State.run_succ, State.tick_runningAs_of_cons hr htodo, hu, (State.tick_inputs s).1, noneEnded hsome]
      · rw [State.run_none k hnone] at herr
        exact absurd herr hfailed

/-- A launch that ends without error returns at a core `u` that does not depend on what the operation is and returns. -/
theorem State.launch_returns {s t : State} {i : Instr} {fsm : Fsm} {todo : List Micro} {f : Finish}
    (h : s.launch i fsm todo f = t) (hend : t.op = none) (herr : t.err = .ok) : ∃ (u : State) (r : Running), ∀ j g,
      s.launch j fsm todo g = u.deliver (g.result r u.acc s.cfg.numerics s.freeSeq) := by
  subst h
  exact State.run_returns (s := (s.setFsm fsm).goOn ⟨i, todo, f, [], [], []⟩) rfl hend herr

/-- A burst that ends without error, likewise; one of no sample returns at once (R200). -/
theorem State.acquire_returns {s t : State} {i : Instr} {n : Nat} {f : Finish} (h : s.acquire i n f = t)
    (hend : t.op = none) (herr : t.err = .ok) : ∃ (u : State) (r : Running), ∀ j g,
      s.acquire j n g = u.deliver (g.result r u.acc s.cfg.numerics s.freeSeq) := by
  by_cases hn : n = 0
  · subst hn
    refine ⟨s.setAcc [], ⟨i, [], f, [], [], []⟩, fun j g => ?_⟩
    rw [← Finish.result_as g ⟨i, [], f, [], [], []⟩ j g]
    rfl
  · simp only [State.acquire_pos s _ hn] at h ⊢
    exact State.launch_returns h hend herr

/-! ### The operations -/

section
variable {s : State}

theorem exec_rdAxisTriplet (hidle : s.fsm = .idle) : exec .rdAxisTriplet s =
    .next (s.begin.launch .rdAxisTriplet .waitingReady (tripletSequence s.cfg.readyTimeout) .axes) := by
  rw [exec]
  exact State.accept_idle hidle _

theorem exec_rdTripletRaw (hidle : s.fsm = .idle) : exec .rdTripletRaw s =
    .next (s.begin.launch .rdTripletRaw .waitingReady (tripletSequence s.cfg.readyTimeout) .axes) := by
  rw [exec]
  exact State.accept_idle hidle _

theorem exec_rdTripletG_of_scale (hidle : s.fsm = .idle) {scale : Number} (hscale : s.scale = some scale) :
    exec .rdTripletG s =
      .next (s.begin.launch .rdTripletG .waitingReady (tripletSequence s.cfg.readyTimeout) (.axesG scale)) := by
  rw [exec]
  refine State.accept_eq_next hidle ?_
  simp [hscale]

end

/-- Settles O53: the raw read and the scaled read return where the decoded read does, each with its result of the same
values. -/
theorem scaledReadsAreCompositions : Obligations.ScaledReadsAreCompositions := by
  intro s t scale hidle hscale
  refine ⟨fun a h hend hres herr => ?_, fun n l h hend hres herr => ?_⟩
  · rw [exec_rdAxisTriplet hidle, Host.Outcome.next.injEq] at h
    obtain ⟨u, r, hu⟩ := State.launch_returns h hend herr
    rw [hu, Finish.result] at h
    subst h
    cases hres
    rw [exec_rdTripletRaw hidle, exec_rdTripletG_of_scale hidle hscale, hu, hu]
    exact ⟨rfl, rfl⟩
  · rw [exec_acqN hidle, Host.Outcome.next.injEq] at h
    obtain ⟨u, r, hu⟩ := State.acquire_returns h hend herr
    rw [hu, Finish.result] at h
    subst h
    cases hres
    rw [exec_rdBurstRaw hidle, exec_rdBurstG_of_scale hidle hscale, hu, hu]
    exact ⟨rfl, rfl⟩

end Sys2Proof.Machine
end

section
/-! SUPPORT. The Register Protocol Codec: its three pure functions, the checks of the register accesses, and the accesses
against the reference device (R130 to R139). -/

namespace Sys2Proof.Machine

/-! ### The reference device behind the transport (R81 to R83) -/

/-- The reference device `d` answers the calls to come: it is attached and no cue stands before it. -/
def Env.AnswersBy (e : Env) (d : RefDevice) : Prop := e.device = some d ∧ e.cues = []

section
variable {m : RegMap} {e : Env} {d : RefDevice} {a : Addr}

theorem Env.AnswersBy.transfer (h : e.AnswersBy d) {d' : RefDevice} {f : Frame} {resp : List Byte}
    (hf : d.receive m f = some (d', resp)) : ∃ e', e.transfer m f = (e', .respond resp) ∧ e'.AnswersBy d' := by
  obtain ⟨hdevice, hcues⟩ := h
  have answer : e.deviceAnswer m f = (some d', .respond resp) := by simp [Env.deviceAnswer, hdevice, hf]
  have transfer : e.transfer m f =
      ({ e with device := some d' }.record (.transfer f (.respond resp)), .respond resp) := by
    simp [Env.transfer, hcues, answer]
  exact ⟨_, transfer, rfl, hcues⟩

/-- `RegWrite` succeeds, and the device takes the byte where it lets a frame write (R67, R83). -/
theorem Env.AnswersBy.regWrite (h : e.AnswersBy d) (v : Byte) : ∃ e', e.regWrite m a v = (e', .ok ()) ∧
    e'.AnswersBy ((d.logged (writeFrame a v)).writeReg m a v) := by
  obtain ⟨e', transfer, h'⟩ := h.transfer (RefDevice.receive_writeFrame m d a v)
  exact ⟨e', Env.regWrite_of_respond transfer rfl, h'⟩

/-- `RegRead` away from `FIFO_DATA` succeeds with the device's registers from the address on (R66, R82). -/
theorem Env.AnswersBy.regRead (h : e.AnswersBy d) {n : Nat} (hn : n ≠ 0) (ha : a ≠ m.fifoData) :
    ∃ e', e.regRead m a n = (e', .ok ((List.range n).map fun i => d.byteAt m (a.toNat + i))) ∧
      e'.AnswersBy (d.logged (readFrame a n)) := by
  obtain ⟨e', transfer, h'⟩ := h.transfer (RefDevice.receive_readFrame hn ha d)
  exact ⟨e', Env.regRead_of_respond hn transfer (by simp), h'⟩

end

/-! ### Documented addresses (R100, R138) -/

theorem mem_registerNames (name : RegName) : name ∈ registerNames := by
  cases name <;> decide

theorem documented_iff {m : RegMap} {a : Addr} : documented m a = true ↔ ∃ name : RegName, m.addr name = a := by
  simp [documented, mem_registerNames]

theorem documented_of_writable {m : RegMap} {a : Addr} (h : writable m a = true) : documented m a = true := by
  obtain ⟨name, -, hname⟩ := List.any_eq_true.mp h
  exact documented_iff.mpr ⟨name, beq_iff_eq.mp hname⟩

theorem documented_defaultRegMap_iff : ∀ a : Addr,
    documented defaultRegMap a = true ↔ a.toNat ≤ 0x11 ∨ (0x1E ≤ a.toNat ∧ a.toNat ≤ 0x2F) := by
  decide

/-- A documented address of the register space reads as its register (R82). -/
theorem RefDevice.byteAt_of_documented {m : RegMap} {a : Addr} (ha : documented m a = true) (hmax : a.toNat ≤ addrMax)
    (d : RefDevice) : d.byteAt m a.toNat = Memory.read m d.mem a.toNat := by
  simp [RefDevice.byteAt, ha, hmax]

/-- Settles O24: every name stands in the table of R100, and the default map's addresses are compared one by one. -/
theorem documentedAddresses : Obligations.DocumentedAddresses :=
  ⟨fun _ _ => documented_iff, documented_defaultRegMap_iff⟩

/-! ### Operations that end where they are taken -/

/-- A return of an operation just taken, with no call made (R15). -/
theorem State.begin_deliver (s : State) (v : Result) : s.begin.deliver v = s.returned s.env v := rfl

section
variable {s : State}

/-- A raise of an operation just taken, with no call made (R15, R240). -/
theorem State.begin_raise (hidle : s.fsm = .idle) (code : ErrCode) (info : ErrInfo) :
    s.begin.raise code info = s.raised s.env code info := by
  simp [State.raise, State.raised, State.begin, hidle]

theorem exec_encRd_zero (hidle : s.fsm = .idle) (a : Addr) :
    exec (.encRd a 0) s = .next (s.raised s.env .invalidArgument .length) := by
  rw [exec]
  exact State.accept_eq_next hidle (State.begin_raise hidle ..)

theorem encodeRead_pos (a : Addr) {n : Nat} (hn : n ≠ 0) : encodeRead a n = .ok (readFrame a n) := if_neg hn

theorem exec_encRd_pos (hidle : s.fsm = .idle) (a : Addr) {n : Nat} (hn : n ≠ 0) :
    exec (.encRd a n) s = .next (s.returned s.env (.bytes (readFrame a n))) := by
  rw [exec]
  refine State.accept_eq_next hidle ?_
  simp [encodeRead_pos a hn, State.begin_deliver]

theorem exec_encWr (hidle : s.fsm = .idle) (a : Addr) (v : Byte) :
    exec (.encWr a v) s = .next (s.returned s.env (.bytes (writeFrame a v))) := by
  rw [exec]
  exact State.accept_idle hidle _

theorem exec_decRsp_nil (hidle : s.fsm = .idle) :
    exec (.decRsp []) s = .next (s.raised s.env .invalidArgument .empty) := by
  rw [exec]
  exact State.accept_eq_next hidle (State.begin_raise hidle ..)

theorem exec_decRsp_cons (hidle : s.fsm = .idle) (b : Byte) (l : List Byte) :
    exec (.decRsp (b :: l)) s = .next (s.returned s.env (.bytes l)) := by
  rw [exec]
  exact State.accept_idle hidle _

theorem exec_regRd_zero (hidle : s.fsm = .idle) (a : Addr) :
    exec (.regRd a 0) s = .next (s.raised s.env .invalidArgument .length) := by
  rw [exec]
  exact State.accept_eq_next hidle (State.begin_raise hidle ..)

theorem exec_regRd_undocumented (hidle : s.fsm = .idle) {a : Addr} {n : Nat} (hn : n ≠ 0)
    (ha : documented s.cfg.regmap a = false) :
    exec (.regRd a n) s = .next (s.raised s.env .invalidArgument (.address a)) := by
  rw [exec]
  refine State.accept_eq_next hidle ?_
  simp [hn, ha, State.begin_raise hidle]

theorem exec_regWr_undocumented (hidle : s.fsm = .idle) {a : Addr} (v : Byte)
    (ha : documented s.cfg.regmap a = false) :
    exec (.regWr a v) s = .next (s.raised s.env .invalidArgument (.address a)) := by
  rw [exec]
  refine State.accept_eq_next hidle ?_
  simp [ha, State.begin_raise hidle]

/-- No selector but 0, 1 and 2 is an axis (R102). -/
theorem axisOfSelector_of_three_le {x : Byte} (hx : 3 ≤ x.toNat) : axisOfSelector x = none := by
  rw [axisOfSelector]
  split
  case h_4 => rfl
  all_goals omega

theorem exec_rdAxisRaw_of_three_le (hidle : s.fsm = .idle) {x : Byte} (hx : 3 ≤ x.toNat) :
    exec (.rdAxisRaw x) s = .next (s.raised s.env .invalidArgument (.selector x)) := by
  rw [exec]
  refine State.accept_eq_next hidle ?_
  simp [axisOfSelector_of_three_le hx, State.begin_raise hidle]

end

/-- Settles O18: each codec function by whether it returns or raises, its frame in numbers. -/
theorem codecFunctionsResult : Obligations.CodecFunctionsResult := by
  intro s hidle
  refine ⟨fun a n => ?_, fun a v => ?_, exec_decRsp_nil hidle, exec_decRsp_cons hidle⟩
  · split
    case isTrue hn => exact hn ▸ exec_encRd_zero hidle a
    case isFalse hn => rw [exec_encRd_pos hidle a hn, readFrame_eq_ofNat]
  · rw [exec_encWr hidle, writeFrame_eq_ofNat]

/-- Settles O23: each check by the raise it ends the operation with. -/
theorem argumentsAreCheckedFirst : Obligations.ArgumentsAreCheckedFirst := fun _ hidle =>
  ⟨exec_regRd_zero hidle, fun _ _ hn => exec_regRd_undocumented hidle (Nat.one_le_iff_ne_zero.mp hn),
    fun _ v => exec_regWr_undocumented hidle v, fun _ => exec_rdAxisRaw_of_three_le hidle⟩

/-! ### The laws of the frames (R135 (a) to (e)) -/

theorem toNat_readCommand (a : Addr) : (readCommand a).toNat = 2 * a.toNat + 1 := readCommand_eq_iff.mp rfl

theorem toNat_writeCommand (a : Addr) : (writeCommand a).toNat = 2 * a.toNat := writeCommand_eq_iff.mp rfl

theorem getLsbD_readCommand_zero (a : Addr) : (readCommand a).getLsbD 0 = true := by
  rw [getLsbD_zero_eq, toNat_readCommand]
  exact decide_eq_true (by omega)

theorem getLsbD_writeCommand_zero (a : Addr) : (writeCommand a).getLsbD 0 = false := by
  rw [getLsbD_zero_eq, toNat_writeCommand]
  exact decide_eq_false (by omega)

/-- The first byte shifted right by one is the address, for a read (R135 (c)). -/
theorem toNat_readCommand_shiftRight (a : Addr) : (readCommand a >>> 1).toNat = a.toNat := by
  rw [BitVec.toNat_ushiftRight, Nat.shiftRight_one, toNat_readCommand]
  omega

/-- The first byte shifted right by one is the address, for a write (R135 (c)). -/
theorem toNat_writeCommand_shiftRight (a : Addr) : (writeCommand a >>> 1).toNat = a.toNat := by
  rw [BitVec.toNat_ushiftRight, Nat.shiftRight_one, toNat_writeCommand]
  omega

/-- Settles O19: the laws of the two command bytes, and the response by its first byte. -/
theorem codecLaws : Obligations.CodecLaws := by
  refine ⟨fun a n v hn => ⟨readCommand a, List.replicate n 0, writeCommand a, ?_⟩, fun r hr => ?_⟩
  · exact ⟨encodeRead_pos a (Nat.one_le_iff_ne_zero.mp hn), rfl, by simp, getLsbD_readCommand_zero a,
      getLsbD_writeCommand_zero a, toNat_readCommand_shiftRight a, toNat_writeCommand_shiftRight a,
      by rw [toNat_readCommand, toNat_writeCommand]⟩
  · obtain ⟨b, p, rfl⟩ := List.exists_cons_of_ne_nil hr
    exact ⟨p, rfl, rfl⟩

/-! ### The register accesses (R136, R137) -/

/-- Settles O21: an address that passes the checks is read as `RegRead` reads it. -/
theorem registerReadResult : Obligations.RegisterReadResult := by
  intro a n s e p hidle hfuel ha h
  obtain ⟨hn, -⟩ := Env.regRead_ok h
  rw [exec_regRd_documented hidle hn ha, ← State.registerRead_pos _ _ a hn, State.registerRead_of_ok hfuel h]

/-- Settles O22: an address that passes the check is written as `RegWrite` writes it. -/
theorem registerWriteResult : Obligations.RegisterWriteResult := by
  intro a v s e hidle hfuel ha h
  rw [exec_regWr_documented hidle v ha, ← State.registerWrite, State.registerWrite_of_ok hfuel h]

/-- Settles O59: the write puts `v` into the device's register, and the read, of the device with one more frame in its log,
gives that register. -/
theorem writeThenReadReturnsTheValue : Obligations.WriteThenReadReturnsTheValue := by
  intro s d a v hidle hfuel hdevice hcues hwritable hmax hfifo
  have ha : documented s.cfg.regmap a = true := documented_of_writable hwritable
  obtain ⟨e₁, hwrite, h₁⟩ := Env.AnswersBy.regWrite (m := s.cfg.regmap) (a := a) ⟨hdevice, hcues⟩ v
  obtain ⟨e₂, hread, h₂⟩ := h₁.regRead Nat.one_ne_zero hfifo
  have read := RefDevice.read_writeReg s.cfg.regmap (d.logged (writeFrame a v)) a v
  refine ⟨_, _, _, registerWriteResult a v s e₁ hidle hfuel ha hwrite, rfl,
    registerReadResult a 1 (s.returned e₁ .none) e₂ _ rfl hfuel ha hread, rfl, rfl, ?_, h₂.1, fun b hb => ?_⟩
  · have hbyte := (RefDevice.byteAt_of_documented ha hmax _).trans ((read _).trans (if_pos ⟨rfl, hwritable, hmax⟩))
    simp only [State.returned, List.range_one, List.map_cons, List.map_nil, Nat.add_zero, hbyte]
  · exact (read b).trans (if_neg fun h => hb h.1)

end Sys2Proof.Machine
end

section
/-! SUPPORT. The configuration operations that end where they are looked up, and those whose transactions all succeed
(R150 to R158): the positions of a sequence lead from one core to the next, whatever follows them. -/

namespace Sys2Proof.Machine

/-! ### The lookups (R153, R245) -/

theorem lookupRange_eq_none_iff {t : List RangeRow} {d : Decimal} :
    lookupRange t d = none ↔ ∀ row ∈ t, row.key.same d = false := by
  simp [lookupRange]

theorem lookupOdr_eq_none_iff {t : List OdrRow} {d : Decimal} :
    lookupOdr t d = none ↔ ∀ row ∈ t, row.key.same d = false := by
  simp [lookupOdr]

theorem lookupHpf_eq_none_iff {t : List HpfRow} {h : Int} : lookupHpf t h = none ↔ ∀ row ∈ t, row.key ≠ h := by
  simp [lookupHpf]

theorem lookupRange_exists {t : List RangeRow} {d : Decimal} (h : ∃ row ∈ t, row.key.same d = true) :
    ∃ row, lookupRange t d = some row :=
  Option.isSome_iff_exists.mp (List.find?_isSome.mpr h)

theorem lookupOdr_exists {t : List OdrRow} {d : Decimal} (h : ∃ row ∈ t, row.key.same d = true) :
    ∃ row, lookupOdr t d = some row :=
  Option.isSome_iff_exists.mp (List.find?_isSome.mpr h)

/-- The key of a filter setting is the setting (R107). -/
theorem key_of_lookupHpf {t : List HpfRow} {h : Int} {row : HpfRow} (hrow : lookupHpf t h = some row) : row.key = h :=
  beq_iff_eq.mp (List.find?_some (p := fun r : HpfRow => r.key == h) hrow)

section
variable {s : State}

theorem exec_setRange_of_none (hidle : s.fsm = .idle) {d : Decimal} (hd : lookupRange s.cfg.rangeTable d = none) :
    exec (.setRange d) s = .next (s.raised s.env .unsupportedRange (.range d)) := by
  rw [exec]
  refine State.accept_eq_next hidle ?_
  simp [hd, State.begin_raise hidle]

theorem exec_setFilter_of_odr_none (hidle : s.fsm = .idle) {odr : Decimal}
    (hodr : lookupOdr s.cfg.odrTable odr = none) (h : Int) :
    exec (.setFilter odr h) s = .next (s.raised s.env .unsupportedRate (.rate odr)) := by
  rw [exec]
  refine State.accept_eq_next hidle ?_
  simp [hodr, State.begin_raise hidle]

theorem exec_setFilter_of_hpf_none (hidle : s.fsm = .idle) {odr : Decimal} {h : Int} {row : OdrRow}
    (hodr : lookupOdr s.cfg.odrTable odr = some row) (hhpf : lookupHpf s.cfg.hpfTable h = none) :
    exec (.setFilter odr h) s = .next (s.raised s.env .unsupportedFilter (.filter h)) := by
  rw [exec]
  refine State.accept_eq_next hidle ?_
  simp [hodr, hhpf, State.begin_raise hidle]

theorem exec_configure_of_range_none (hidle : s.fsm = .idle) {d : Decimal}
    (hd : lookupRange s.cfg.rangeTable d = none) (odr : Decimal) (h : Int) :
    exec (.configure d odr h) s = .next (s.raised s.env .unsupportedRange (.range d)) := by
  rw [exec]
  refine State.accept_eq_next hidle ?_
  simp [hd, State.begin_raise hidle]

theorem exec_configure_of_odr_none (hidle : s.fsm = .idle) {d odr : Decimal} {k : RangeRow}
    (hd : lookupRange s.cfg.rangeTable d = some k) (hodr : lookupOdr s.cfg.odrTable odr = none) (h : Int) :
    exec (.configure d odr h) s = .next (s.raised s.env .unsupportedRate (.rate odr)) := by
  rw [exec]
  refine State.accept_eq_next hidle ?_
  simp [hd, hodr, State.begin_raise hidle]

theorem exec_configure_of_hpf_none (hidle : s.fsm = .idle) {d odr : Decimal} {h : Int} {k : RangeRow} {row : OdrRow}
    (hd : lookupRange s.cfg.rangeTable d = some k) (hodr : lookupOdr s.cfg.odrTable odr = some row)
    (hhpf : lookupHpf s.cfg.hpfTable h = none) :
    exec (.configure d odr h) s = .next (s.raised s.env .unsupportedFilter (.filter h)) := by
  rw [exec]
  refine State.accept_eq_next hidle ?_
  simp [hd, hodr, hhpf, State.begin_raise hidle]

end

/-- Settles O31: each lookup that fails, behind those before it that succeed. -/
theorem lookupFailuresTouchNothing : Obligations.LookupFailuresTouchNothing := by
  intro s d odr h hidle
  refine ⟨fun hrange => ?_, fun hrate => ?_, fun hrate hfilter => ?_⟩
  · rw [← lookupRange_eq_none_iff] at hrange
    exact ⟨exec_setRange_of_none hidle hrange, exec_configure_of_range_none hidle hrange odr h⟩
  · rw [← lookupOdr_eq_none_iff] at hrate
    refine ⟨exec_setFilter_of_odr_none hidle hrate h, fun hrange => ?_⟩
    obtain ⟨k, hk⟩ := lookupRange_exists hrange
    exact exec_configure_of_odr_none hidle hk hrate h
  · rw [← lookupHpf_eq_none_iff] at hfilter
    obtain ⟨row, hrow⟩ := lookupOdr_exists hrate
    refine ⟨exec_setFilter_of_hpf_none hidle hrow hfilter, fun hrange => ?_⟩
    obtain ⟨k, hk⟩ := lookupRange_exists hrange
    exact exec_configure_of_hpf_none hidle hk hrow hfilter

/-! ### Positions that lead from one core to the next -/

/-- The positions `l`, none of them failing, lead from `u` to `v`, whatever the operation is and whatever follows them. -/
def State.RunsThrough (l : List Micro) (u v : State) : Prop :=
  ∀ (r : Running) (rest : List Micro),
    State.run l.length (u.goOn { r with todo := l ++ rest }) = v.goOn { r with todo := rest }

theorem State.RunsThrough.append {l l' : List Micro} {u v w : State} (h : u.RunsThrough l v)
    (h' : v.RunsThrough l' w) : u.RunsThrough (l ++ l') w := by
  intro r rest
  rw [List.length_append, State.run_split, List.append_assoc, h r, h' r]

/-- One position that goes on with what follows it. -/
theorem State.runsThrough_single {m : Micro} {u v : State} (h : ∀ r w, m.run r (u.goOn w) = v.goOn r) :
    u.RunsThrough [m] v := by
  intro r rest
  rw [List.length_singleton, State.run_succ, State.run_zero, State.tick_cons rfl rfl]
  exact h ..

theorem State.runsThrough_commitRange (u : State) (key : Decimal) :
    u.RunsThrough [.commitRange key] (u.commitRange key) :=
  State.runsThrough_single fun _ _ => rfl

theorem State.runsThrough_commitFilter (u : State) (odr : Decimal) (hpf : Int) :
    u.RunsThrough [.commitFilter odr hpf] (u.commitFilter odr hpf) :=
  State.runsThrough_single fun _ _ => rfl

/-- The write of `FILTER` (R155). -/
theorem State.runsThrough_filterWr {u : State} {hpf : BitVec 3} {odr : BitVec 4} {e : Env}
    (h : u.env.regWrite u.cfg.regmap u.cfg.regmap.filter (filterValue hpf odr) = (e, .ok ())) :
    u.RunsThrough [.filterWr hpf odr] (u.withEnv e) :=
  State.runsThrough_single fun r w => by
    rw [Micro.run]
    exact State.busWrite_ok (s := u.goOn w) h

/-- The two transactions that lead from `e` to `e'` read the byte `p` at the address `a` and write `f p` there. -/
def Env.Updates (m : RegMap) (a : Addr) (f : Byte → Byte) (p : Byte) (e e' : Env) : Prop :=
  ∃ e₁, e.regRead m a 1 = (e₁, .ok [p]) ∧ e₁.regWrite m a (f p) = (e', .ok ())

/-- A position that reads a register into `TMP`, and one that writes it back changed (R150, R151, R154). -/
theorem State.runsThrough_update {rd wr : Micro} {addr : RegMap → Addr} {f : Byte → Byte}
    (hrd : ∀ r s, rd.run r s = s.busRead (addr s.cfg.regmap) 1 fun p s => (s.setTmp (firstByte p)).goOn r)
    (hwr : ∀ r s, wr.run r s = s.busWrite (addr s.cfg.regmap) (f s.tmp) fun s => s.goOn r) {u : State} {p : Byte}
    {e : Env} (h : u.env.Updates u.cfg.regmap (addr u.cfg.regmap) f p e) :
    u.RunsThrough [rd, wr] ((u.setTmp p).withEnv e) := by
  obtain ⟨e₁, hread, hwrite⟩ := h
  have read : u.RunsThrough [rd] ((u.withEnv e₁).setTmp p) := 
    State.runsThrough_single fun r w => (hrd r _).trans (State.busRead_ok (s := u.goOn w) hread)
  have write : ((u.withEnv e₁).setTmp p).RunsThrough [wr] ((u.setTmp p).withEnv e) :=
    State.runsThrough_single fun r w =>
      (hwr r _).trans (State.busWrite_ok (s := ((u.withEnv e₁).setTmp p).goOn w) hwrite)
  exact read.append write

section
variable {u : State} {e₁ e₂ e₃ : Env} {p q : Byte}

theorem State.runsThrough_stop (h : u.env.Updates u.cfg.regmap u.cfg.regmap.powerCtl stopValue p e₁) :
    u.RunsThrough stopSequence ((u.setTmp p).withEnv e₁) :=
  State.runsThrough_update (fun _ _ => rfl) (fun _ _ => rfl) h

theorem State.runsThrough_start (h : u.env.Updates u.cfg.regmap u.cfg.regmap.powerCtl startValue p e₁) :
    u.RunsThrough startSequence ((u.setTmp p).withEnv e₁) :=
  State.runsThrough_update (fun _ _ => rfl) (fun _ _ => rfl) h

theorem State.runsThrough_rangeUpdate {code : BitVec 2}
    (h : u.env.Updates u.cfg.regmap u.cfg.regmap.range (rangeValue · code) p e₁) :
    u.RunsThrough [.rangeRd, .rangeWr code] ((u.setTmp p).withEnv e₁) :=
  State.runsThrough_update (addr := RegMap.range) (fun _ _ => rfl) (fun _ _ => rfl) h

/-- The six transactions of `set_range` and its commit (R154, R156). -/
theorem State.runsThrough_range {row : RangeRow} {o : Byte}
    (hstop : u.env.Updates u.cfg.regmap u.cfg.regmap.powerCtl stopValue p e₁)
    (hrange : e₁.Updates u.cfg.regmap u.cfg.regmap.range (rangeValue · row.code) o e₂)
    (hstart : e₂.Updates u.cfg.regmap u.cfg.regmap.powerCtl startValue q e₃) :
    u.RunsThrough (rangeSequence row) (((u.setTmp q).withEnv e₃).commitRange row.key) := by
  have stop := State.runsThrough_stop hstop
  have range := State.runsThrough_rangeUpdate (u := (u.setTmp p).withEnv e₁) hrange
  have start := State.runsThrough_start (u := (u.setTmp o).withEnv e₂) hstart
  exact ((stop.append range).append start).append (State.runsThrough_commitRange _ row.key)

/-- The five transactions of `set_filter` and its commit (R155, R156). -/
theorem State.runsThrough_filter {orow : OdrRow} {hrow : HpfRow}
    (hstop : u.env.Updates u.cfg.regmap u.cfg.regmap.powerCtl stopValue p e₁)
    (hfilter : e₁.regWrite u.cfg.regmap u.cfg.regmap.filter (filterValue hrow.code orow.code) = (e₂, .ok ()))
    (hstart : e₂.Updates u.cfg.regmap u.cfg.regmap.powerCtl startValue q e₃) :
    u.RunsThrough (filterSequence orow hrow) (((u.setTmp q).withEnv e₃).commitFilter orow.key hrow.key) := by
  have stop := State.runsThrough_stop hstop
  have filter := State.runsThrough_filterWr (u := (u.setTmp p).withEnv e₁) hfilter
  have start := State.runsThrough_start (u := (u.setTmp p).withEnv e₂) hstart
  exact ((stop.append filter).append start).append (State.runsThrough_commitFilter _ orow.key hrow.key)

end

/-! ### Operations whose positions all succeed -/

section
variable {s v : State} {f : Fsm} {l : List Micro} {i : Instr}

/-- Behind its last position, with fuel to spare, an operation without a result returns (R15, R199). -/
theorem State.RunsThrough.launch (h : (s.setFsm f).RunsThrough l v) (hfuel : l.length < s.fuel) :
    s.launch i f l .none = v.deliver .none := by
  obtain ⟨k, hk⟩ := Nat.exists_eq_add_of_le (Nat.succ_le_of_lt hfuel)
  have run := h ⟨i, l, .none, [], [], []⟩ []
  rw [List.append_nil] at run
  rw [State.launch, hk]
  exact State.run_add_none (State.run_done run rfl rfl) rfl

end

/-- The `FILTER` byte as a number (R97). -/
theorem filterValue_eq_ofNat (hpf : BitVec 3) (odr : BitVec 4) :
    filterValue hpf odr = BitVec.ofNat 8 (16 * hpf.toNat + odr.toNat) := by
  rw [← toNat_filterValue, BitVec.ofNat_toNat, BitVec.setWidth_eq]

/-- Settles O27: the read and the write of each operation, then its return. -/
theorem stopAndStartResult : Obligations.StopAndStartResult := by
  intro s e1 e2 p hidle hfuel hread
  refine ⟨fun hwrite => ?_, fun hwrite => ?_⟩
  · have stop := State.runsThrough_stop (u := s.begin.setFsm .sequencing) ⟨e1, hread, hwrite⟩
    rw [exec_stop hidle, stop.launch hfuel]
    rfl
  · have start := State.runsThrough_start (u := s.begin.setFsm .sequencing) ⟨e1, hread, hwrite⟩
    rw [exec_start hidle, start.launch hfuel]
    rfl

/-- Settles O28: the three reads with their writes, the commit, and the return. -/
theorem setRangeResult : Obligations.SetRangeResult := by
  intro s d k e1 e2 e3 e4 e5 e6 p o q hidle hfuel hk h1 h2 h3 h4 h5 h6
  have range := State.runsThrough_range (u := s.begin.setFsm .sequencing) ⟨e1, h1, h2⟩ ⟨e3, h3, h4⟩ ⟨e5, h5, h6⟩
  rw [exec_setRange_of_lookup hidle hk, range.launch hfuel]
  rfl

/-- Settles O29: the bracket around the write of `FILTER`, the commit, and the return. -/
theorem setFilterResult : Obligations.SetFilterResult := by
  intro s odr h row hrow e1 e2 e3 e4 e5 p q hidle hfuel hodr hhpf h1 h2 h3 h4 h5
  rw [← filterValue_eq_ofNat] at h3
  have filter := State.runsThrough_filter (u := s.begin.setFsm .sequencing) ⟨e1, h1, h2⟩ h3 ⟨e4, h4, h5⟩
  rw [exec_setFilter_of_lookup hidle hodr hhpf, filter.launch hfuel, key_of_lookupHpf hhpf]
  rfl

/-- Settles O30: the range part, then the filter part at the core it leaves. -/
theorem configureResult : Obligations.ConfigureResult := by
  intro s d odr h k row hrow e1 e2 e3 e4 e5 e6 e7 e8 e9 e10 e11 p o q p' q' hidle hfuel hk hodr hhpf h1 h2 h3 h4 h5 h6
    h7 h8 h9 h10 h11
  rw [← filterValue_eq_ofNat] at h9
  have range := State.runsThrough_range (u := s.begin.setFsm .sequencing) ⟨e1, h1, h2⟩ ⟨e3, h3, h4⟩ ⟨e5, h5, h6⟩
  have filter := State.runsThrough_filter ⟨e7, h7, h8⟩ h9 ⟨e10, h10, h11⟩
    (u := (((s.begin.setFsm .sequencing).setTmp q).withEnv e6).commitRange k.key)
  rw [exec_configure_of_lookup hidle hk hodr hhpf, (range.append filter).launch hfuel, key_of_lookupHpf hhpf]
  simp only [State.deliver, State.returned, State.setTmp, State.withEnv, State.commitRange, State.commitFilter,
    State.setFsm, State.begin]

end Sys2Proof.Machine
end

section
/-! SUPPORT. A configuration operation against the reference device (R81 to R83, R157): what it leaves in the record and in
the device registers is what it leaves there when it is applied again. -/

namespace Sys2Proof.Machine

/-! ### The registers of the reference device -/

/-- Under the default map the reference device lets a frame write every writable register, and none of them is `FIFO_DATA`
(R83, R100). -/
theorem writable_defaultRegMap : ∀ name ∈ writableNames, writable defaultRegMap (defaultRegMap.addr name) = true ∧
    (defaultRegMap.addr name).toNat ≤ addrMax ∧ defaultRegMap.addr name ≠ defaultRegMap.fifoData := by decide

/-- `f` on the byte at the address `a`, every other byte as it is. -/
def onByte (a : Addr) (f : Byte → Byte) (b : Nat) (x : Byte) : Byte := if b = a.toNat then f x else x

section
variable {m : RegMap} {e : Env} {d : RefDevice}

/-- A write to a writable register, answered by the reference device (R83). -/
theorem Env.AnswersBy.writes (h : e.AnswersBy d) (hmap : m = defaultRegMap) {name : RegName}
    (hname : name ∈ writableNames) (v : Byte) : ∃ e' d', e.regWrite m (m.addr name) v = (e', .ok ()) ∧
      e'.AnswersBy d' ∧ ∀ b, Memory.read m d'.mem b = onByte (m.addr name) (fun _ => v) b (Memory.read m d.mem b) := by
  subst hmap
  obtain ⟨hwritable, hmax, -⟩ := writable_defaultRegMap name hname
  obtain ⟨e', hwrite, h'⟩ := h.regWrite (m := defaultRegMap) (a := defaultRegMap.addr name) v
  refine ⟨e', _, hwrite, h', fun b => ?_⟩
  simp [RefDevice.read_writeReg, onByte, hwritable, hmax]

/-- A writable register read and written back changed, answered by the reference device (R82, R83). -/
theorem Env.AnswersBy.updates (h : e.AnswersBy d) (hmap : m = defaultRegMap) {name : RegName}
    (hname : name ∈ writableNames) (f : Byte → Byte) : ∃ p e' d', e.Updates m (m.addr name) f p e' ∧
      e'.AnswersBy d' ∧ ∀ b, Memory.read m d'.mem b = onByte (m.addr name) f b (Memory.read m d.mem b) := by
  have hmem := writable_defaultRegMap name hname
  rw [← hmap] at hmem
  obtain ⟨hwritable, hmax, hfifo⟩ := hmem
  obtain ⟨e₁, hread, h₁⟩ := h.regRead (m := m) Nat.one_ne_zero hfifo
  obtain ⟨e', d', hwrite, h', hbytes⟩ := h₁.writes hmap hname (f (Memory.read m d.mem (m.addr name).toNat))
  have hbyte : d.byteAt m (m.addr name).toNat = Memory.read m d.mem (m.addr name).toNat :=
    RefDevice.byteAt_of_documented (documented_of_writable hwritable) hmax d
  refine ⟨_, e', d', ⟨e₁, ?_, hwrite⟩, h', fun b => ?_⟩
  · simpa [hbyte] using hread
  · rw [hbytes, RefDevice.logged_mem, onByte, onByte]
    split
    case isTrue hb => rw [hb]
    case isFalse => rfl

end

theorem startValue_stopValue : ∀ x : Byte, startValue (stopValue x) = startValue x := by decide

theorem startValue_startValue : ∀ x : Byte, startValue (startValue x) = startValue x := by decide

theorem rangeValue_rangeValue : ∀ (x : Byte) (code : BitVec 2),
    rangeValue (rangeValue x code) code = rangeValue x code := by decide

/-- What `set_range` leaves of the byte `x` at the address `b` of the default map: bit 0 of `POWER_CTL` clear, the code in
`RANGE` (R154). -/
def rangeByte (code : BitVec 2) (b : Nat) (x : Byte) : Byte :=
  if b = 0x2D then startValue x else if b = 0x2C then rangeValue x code else x

/-- What `set_filter` leaves of the byte `x` at the address `b` of the default map: bit 0 of `POWER_CTL` clear, the two codes
in `FILTER` (R155). -/
def filterByte (hpf : BitVec 3) (odr : BitVec 4) (b : Nat) (x : Byte) : Byte :=
  if b = 0x2D then startValue x else if b = 0x28 then filterValue hpf odr else x

/-- The bracket around a change of one other register (R152). -/
theorem onByte_bracket {a : Addr} (ha : a.toNat ≠ 0x2D) (f : Byte → Byte) (b : Nat) (x : Byte) :
    onByte 0x2D startValue b (onByte a f b (onByte 0x2D stopValue b x)) =
      if b = 0x2D then startValue x else if b = a.toNat then f x else x := by
  by_cases hb : b = 0x2D
  · simp [onByte, hb, ha.symm, startValue_stopValue]
  · simp [onByte, hb]

theorem rangeByte_rangeByte (code : BitVec 2) (b : Nat) (x : Byte) :
    rangeByte code b (rangeByte code b x) = rangeByte code b x := by
  by_cases hpower : b = 0x2D
  · simp [rangeByte, hpower, startValue_startValue]
  · by_cases hrange : b = 0x2C <;> simp [rangeByte, hpower, hrange, rangeValue_rangeValue]

theorem filterByte_filterByte (hpf : BitVec 3) (odr : BitVec 4) (b : Nat) (x : Byte) :
    filterByte hpf odr b (filterByte hpf odr b x) = filterByte hpf odr b x := by
  by_cases hpower : b = 0x2D
  · simp [filterByte, hpower, startValue_startValue]
  · by_cases hfilter : b = 0x28 <;> simp [filterByte, hpower, hfilter]

/-- The two parts of a configuration change no register against each other (R158). -/
theorem filterByte_rangeByte (hpf : BitVec 3) (odr : BitVec 4) (code : BitVec 2) (b : Nat) (x : Byte) :
    filterByte hpf odr b (rangeByte code b x) = rangeByte code b (filterByte hpf odr b x) := by
  by_cases hpower : b = 0x2D
  · simp [filterByte, rangeByte, hpower]
  · by_cases hrange : b = 0x2C <;> simp [filterByte, rangeByte, hpower, hrange]

/-! ### The sequences against the reference device -/

/-- Against the reference device under the default map the positions `l` all succeed, change the record as `c` does, and
leave of the device's byte `x` at the address `b` the byte `g b x`. -/
def Reconfigures (l : List Micro) (c : State → State) (g : Nat → Byte → Byte) : Prop :=
  ∀ (u : State) (d : RefDevice), u.cfg.regmap = defaultRegMap → u.env.AnswersBy d →
    ∃ v d', u.RunsThrough l v ∧ (c u).SameRecord v ∧ v.env.AnswersBy d' ∧
      ∀ b, Memory.read u.cfg.regmap d'.mem b = g b (Memory.read u.cfg.regmap d.mem b)

theorem reconfigures_range (row : RangeRow) :
    Reconfigures (rangeSequence row) (·.commitRange row.key) (rangeByte row.code) := by
  intro u d hmap h
  obtain ⟨_, e₁, _, hstop, h₁, bytes₁⟩ := h.updates hmap (name := .powerCtl) (by decide) stopValue
  obtain ⟨_, e₂, _, hrange, h₂, bytes₂⟩ := h₁.updates hmap (name := .range) (by decide) (rangeValue · row.code)
  obtain ⟨_, e₃, _, hstart, h₃, bytes₃⟩ := h₂.updates hmap (name := .powerCtl) (by decide) startValue
  refine ⟨_, _, State.runsThrough_range hstop hrange hstart, ⟨rfl, rfl, rfl, rfl, rfl⟩, h₃, fun b => ?_⟩
  rw [bytes₃, bytes₂, bytes₁, hmap]
  exact onByte_bracket (by decide) ..

theorem reconfigures_filter (orow : OdrRow) (hrow : HpfRow) :
    Reconfigures (filterSequence orow hrow) (·.commitFilter orow.key hrow.key) (filterByte hrow.code orow.code) := by
  intro u d hmap h
  obtain ⟨_, e₁, _, hstop, h₁, bytes₁⟩ := h.updates hmap (name := .powerCtl) (by decide) stopValue
  obtain ⟨e₂, _, hfilter, h₂, bytes₂⟩ :=
    h₁.writes hmap (name := .filter) (by decide) (filterValue hrow.code orow.code)
  obtain ⟨_, e₃, _, hstart, h₃, bytes₃⟩ := h₂.updates hmap (name := .powerCtl) (by decide) startValue
  refine ⟨_, _, State.runsThrough_filter hstop hfilter hstart, ⟨rfl, rfl, rfl, rfl, rfl⟩, h₃, fun b => ?_⟩
  rw [bytes₃, bytes₂, bytes₁, hmap]
  exact onByte_bracket (by decide) ..

/-- Positions that succeed write neither the configuration nor the fuel (R25, R46). -/
theorem State.RunsThrough.inputs {l : List Micro} {u v : State} (h : u.RunsThrough l v) : u.SameInputs v := by
  have run := State.run_inputs l.length (u.goOn ⟨.stop, l ++ [], .none, [], [], []⟩)
  rw [h ⟨.stop, [], .none, [], [], []⟩ []] at run
  exact run

theorem reconfigures_configuration (row : RangeRow) (orow : OdrRow) (hrow : HpfRow) :
    Reconfigures (rangeSequence row ++ filterSequence orow hrow)
      (fun u => (u.commitRange row.key).commitFilter orow.key hrow.key)
      (fun b x => filterByte hrow.code orow.code b (rangeByte row.code b x)) := by
  intro u d hmap h
  obtain ⟨v, d₁, range, hrec, h₁, bytes₁⟩ := reconfigures_range row u d hmap h
  obtain ⟨w, d₂, filter, hrec', h₂, bytes₂⟩ := reconfigures_filter orow hrow v d₁ (range.inputs.1 ▸ hmap) h₁
  rw [range.inputs.1] at bytes₂
  refine ⟨w, d₂, range.append filter, ?_, h₂, fun b => ?_⟩
  · have committed : ((u.commitRange row.key).commitFilter orow.key hrow.key).SameRecord
        (v.commitFilter orow.key hrow.key) := ⟨hrec.cfg, hrec.rangeSel, hrec.scale, rfl, rfl⟩
    exact committed.trans hrec'
  · rw [bytes₂, bytes₁]

/-! ### The configuration operations by their rows -/

/-- The positions of a configuration operation whose keys are all in the tables of `c` (R153 to R158). -/
inductive SequenceOf (c : Config) : Instr → List Micro → Prop
  | setRange {d : Decimal} {k : RangeRow} (hk : lookupRange c.rangeTable d = some k) :
      SequenceOf c (.setRange d) (rangeSequence k)
  | setFilter {odr : Decimal} {h : Int} {row : OdrRow} {hrow : HpfRow} (hodr : lookupOdr c.odrTable odr = some row)
      (hhpf : lookupHpf c.hpfTable h = some hrow) : SequenceOf c (.setFilter odr h) (filterSequence row hrow)
  | configure {d odr : Decimal} {h : Int} {k : RangeRow} {row : OdrRow} {hrow : HpfRow}
      (hk : lookupRange c.rangeTable d = some k) (hodr : lookupOdr c.odrTable odr = some row)
      (hhpf : lookupHpf c.hpfTable h = some hrow) :
      SequenceOf c (.configure d odr h) (rangeSequence k ++ filterSequence row hrow)

theorem exec_of_sequence {i : Instr} {s : State} {l : List Micro} (h : SequenceOf s.cfg i l) (hidle : s.fsm = .idle) :
    exec i s = .next (s.begin.launch i .sequencing l .none) := by
  cases h with
  | setRange hk => exact exec_setRange_of_lookup hidle hk
  | setFilter hodr hhpf => exact exec_setFilter_of_lookup hidle hodr hhpf
  | configure hk hodr hhpf => exact exec_configure_of_lookup hidle hk hodr hhpf

/-- A configuration operation has its sequence, or raises at once (R153). -/
theorem exec_raises_or_sequence {i : Instr} {s : State} (hi : i.setsRange = true ∨ i.setsFilter = true)
    (hidle : s.fsm = .idle) :
    (∃ code info, code ≠ .ok ∧ exec i s = .next (s.raised s.env code info)) ∨ ∃ l, SequenceOf s.cfg i l := by
  cases i
  case setRange d =>
    cases hk : lookupRange s.cfg.rangeTable d with
    | none => exact .inl ⟨_, _, by decide, exec_setRange_of_none hidle hk⟩
    | some k => exact .inr ⟨_, .setRange hk⟩
  case setFilter odr h =>
    cases hodr : lookupOdr s.cfg.odrTable odr with
    | none => exact .inl ⟨_, _, by decide, exec_setFilter_of_odr_none hidle hodr h⟩
    | some row =>
      cases hhpf : lookupHpf s.cfg.hpfTable h with
      | none => exact .inl ⟨_, _, by decide, exec_setFilter_of_hpf_none hidle hodr hhpf⟩
      | some hrow => exact .inr ⟨_, .setFilter hodr hhpf⟩
  case configure d odr h =>
    cases hk : lookupRange s.cfg.rangeTable d with
    | none => exact .inl ⟨_, _, by decide, exec_configure_of_range_none hidle hk odr h⟩
    | some k =>
      cases hodr : lookupOdr s.cfg.odrTable odr with
      | none => exact .inl ⟨_, _, by decide, exec_configure_of_odr_none hidle hk hodr h⟩
      | some row =>
        cases hhpf : lookupHpf s.cfg.hpfTable h with
        | none => exact .inl ⟨_, _, by decide, exec_configure_of_hpf_none hidle hk hodr hhpf⟩
        | some hrow => exact .inr ⟨_, .configure hk hodr hhpf⟩
  all_goals exact absurd hi (by simp [Instr.setsRange, Instr.setsFilter])

/-- A sequence changes the record and the registers of the reference device, and changes neither when it comes again. -/
theorem SequenceOf.reconfigures {c : Config} {i : Instr} {l : List Micro} (h : SequenceOf c i l) :
    ∃ commit g, Reconfigures l commit g ∧ (∀ s t : State, (commit s).SameRecord t → t.SameRecord (commit t)) ∧
      ∀ b x, g b (g b x) = g b x := by
  have scale : ∀ {s t : State} {key : Decimal}, t.cfg = s.cfg → t.scale = some (scaleOf s.cfg.numerics key) →
      some (scaleOf t.cfg.numerics key) = t.scale := fun hcfg hscale => by rw [hcfg, hscale]
  cases h with
  | @setRange _ k hk =>
    refine ⟨_, _, reconfigures_range k, fun s t hrec => ?_, rangeByte_rangeByte k.code⟩
    exact ⟨rfl, hrec.rangeSel.symm, scale hrec.cfg hrec.scale, rfl, rfl⟩
  | @setFilter _ _ row hrow =>
    refine ⟨_, _, reconfigures_filter row hrow, fun s t hrec => ?_, filterByte_filterByte hrow.code row.code⟩
    exact ⟨rfl, rfl, rfl, hrec.odrSel.symm, hrec.hpfSel.symm⟩
  | @configure _ _ _ k row hrow =>
    refine ⟨_, _, reconfigures_configuration k row hrow, fun s t hrec => ?_, fun b x => ?_⟩
    · exact ⟨rfl, hrec.rangeSel.symm, scale hrec.cfg hrec.scale, hrec.odrSel.symm, hrec.hpfSel.symm⟩
    · rw [← filterByte_rangeByte, filterByte_filterByte, rangeByte_rangeByte]

/-! ### Applied twice -/

/-- An operation that has ended had the fuel for all the positions it ran through. -/
theorem State.RunsThrough.length_lt_fuel {s v : State} {f : Fsm} {l : List Micro} {i : Instr} {finish : Finish}
    (h : (s.setFsm f).RunsThrough l v) (hend : (s.launch i f l finish).op = none) : l.length < s.fuel := by
  by_contra hfuel
  obtain ⟨k, hk⟩ := Nat.exists_eq_add_of_le (not_lt.mp hfuel)
  have run := h ⟨i, l, finish, [], [], []⟩ []
  rw [List.append_nil, hk, State.run_split] at run
  have stopped := State.run_none k hend
  rw [State.launch, run] at stopped
  rw [State.launch, ← stopped] at hend
  cases hend

/-- Settles O35: the operation ran through its sequence with the fuel it has again, and neither the record nor a register
is changed by the sequence a second time. -/
theorem configurationIsIdempotent : Obligations.ConfigurationIsIdempotent := by
  intro i s t d0 hi hidle hmap hcues hdevice h hend herr
  rcases exec_raises_or_sequence hi hidle with ⟨code, info, hcode, hraised⟩ | ⟨l, hl⟩
  · cases hraised.symm.trans h
    exact absurd herr hcode
  obtain ⟨commit, g, reconf, again, hg⟩ := hl.reconfigures
  obtain ⟨v, d, through, hrec, hans, bytes⟩ := reconf (s.begin.setFsm .sequencing) d0 hmap ⟨hdevice, hcues⟩
  obtain ⟨hcfg, -, -, hv⟩ := through.inputs
  cases (exec_of_sequence hl hidle).symm.trans h
  have hfuel : l.length < s.fuel := through.length_lt_fuel hend
  rw [through.launch hfuel]
  obtain ⟨w, d', through', hrec', hans', bytes'⟩ :=
    reconf ((v.deliver .none).begin.setFsm .sequencing) d (hcfg ▸ hmap) hans
  have record : ((v.deliver .none).begin.setFsm .sequencing).SameRecord w :=
    (again _ ((v.deliver .none).begin.setFsm .sequencing) (hrec.trans ⟨rfl, rfl, rfl, rfl, rfl⟩)).trans hrec'
  have hexec : exec i (v.deliver .none) = .next (w.deliver .none) := by
    rw [exec_of_sequence (s := v.deliver .none) (hcfg ▸ hl) rfl, through'.launch (hv ▸ hfuel)]
  refine ⟨_, d, d', hexec, rfl, rfl, record.rangeSel, record.scale, record.odrSel, record.hpfSel, hans.1, hans'.1,
    fun a => ?_⟩
  have first : Memory.read s.cfg.regmap d.mem a = g a (Memory.read s.cfg.regmap d0.mem a) := bytes a
  have second : Memory.read v.cfg.regmap d'.mem a = g a (Memory.read v.cfg.regmap d.mem a) := bytes' a
  rw [show v.cfg = s.cfg from hcfg] at second
  rw [second, first, hg]

end Sys2Proof.Machine
end

section
/-! SUPPORT. The record of an operation that ends with an error (R156, R158, R160): a commit stands at the end of a sequence,
behind every transaction that can fail, but for the commit of the range part of a `configure`. -/

namespace Sys2Proof.Machine

/-- The record of `t` is one that the operation `i`, taken in `s`, may have when it ends with an error: that of `s`, or with
the range part of a `configure` committed. -/
structure State.FailsafeRecord (i : Instr) (s t : State) : Prop where
  cfg : t.cfg = s.cfg
  odrSel : t.odrSel = s.odrSel
  hpfSel : t.hpfSel = s.hpfSel
  range : (t.rangeSel = s.rangeSel ∧ t.scale = s.scale) ∨
    ∃ d odr h row, i = .configure d odr h ∧ lookupRange s.cfg.rangeTable d = some row ∧ t.rangeSel = some row.key ∧
      t.scale = some (scaleOf s.cfg.numerics row.key)

theorem State.SameRecord.failsafe {s t : State} (h : s.SameRecord t) (i : Instr) : s.FailsafeRecord i t :=
  ⟨h.cfg, h.odrSel, h.hpfSel, .inl ⟨h.rangeSel, h.scale⟩⟩

theorem State.FailsafeRecord.congr {i : Instr} {s t u : State} (h : s.FailsafeRecord i t) (hu : t.SameRecord u) :
    s.FailsafeRecord i u := by
  refine ⟨hu.cfg.trans h.cfg, hu.odrSel.trans h.odrSel, hu.hpfSel.trans h.hpfSel, ?_⟩
  rw [hu.rangeSel, hu.scale]
  exact h.range

/-- A position of `i`, taken in `s`, behind which another may still fail. -/
def Micro.Failsafe (i : Instr) (s : State) (m : Micro) : Prop :=
  ∀ t, s.FailsafeRecord i t → s.FailsafeRecord i (m.commits t)

theorem Micro.failsafe_of_commits_eq {m : Micro} (h : ∀ t, m.commits t = t) (i : Instr) (s : State) :
    m.Failsafe i s :=
  fun t ht => (h t).symm ▸ ht

/-- A position commits nothing, or it is a commit, which makes no call and goes on (R156). -/
theorem Micro.commits_eq_or_run_eq (m : Micro) :
    (∀ t, m.commits t = t) ∨ ∀ r t, m.run r t = (m.commits t).goOn r := by
  cases m
  case commitRange | commitFilter => exact .inr fun _ _ => rfl
  all_goals exact .inl fun _ => rfl

/-- What a position puts before the rest, the loops of R202, commits nothing. -/
theorem Micro.commits_eq_of_mem_successors (m : Micro) :
    ∀ l ∈ m.successors, ∀ p ∈ l, ∀ t, p.commits t = t := by
  cases m <;> simp [Micro.successors, Micro.commits]

/-- An operation that is not to write a record commits nothing (R21 to R24). -/
theorem Micro.commits_eq_of_may {i : Instr} {m : Micro} (hmay : i.may m = true)
    (hi : ¬ (i.setsRange = true ∨ i.setsFilter = true)) (t : State) : m.commits t = t := by
  cases m
  case commitRange => exact absurd (.inl hmay) hi
  case commitFilter => exact absurd (.inr hmay) hi
  all_goals rfl

/-- Where the operation `i`, taken in `s`, stands in `t`: before a position that may fail, or ended, with a record it may
then have; behind its last position; or returned. -/
inductive State.Stands (i : Instr) (s t : State) : Prop
  | failsafe (record : s.FailsafeRecord i t) (todo : ∀ r, t.op = some r → ∀ m ∈ r.todo.dropLast, m.Failsafe i s)
  | passed {r : Running} (hop : t.op = some r) (htodo : r.todo = [])
  | returned (hop : t.op = none) (herr : t.err = .ok)

/-- An operation that has ended stands where it failed, if its record is one it may then have. -/
theorem State.stands_of_op_eq_none {i : Instr} {s t : State} (record : s.FailsafeRecord i t) (hop : t.op = none) :
    s.Stands i t :=
  .failsafe record fun r hr => by simp [hop] at hr

/-- A failsafe position leaves what is to do behind it as it was, or fails with a record that the operation may have. -/
theorem Micro.Leaves.stands {i : Instr} {s t u : State} {m : Micro} {r : Running} (h : m.Leaves r t u)
    (record : s.FailsafeRecord i (m.commits t)) (todo : ∀ p ∈ r.todo.dropLast, p.Failsafe i s) : s.Stands i u := by
  cases h with
  | @goesOn w r' l passed _ hl htodo =>
    refine .failsafe ((record.congr passed.record).congr (w.goOn_sameRecord r')) fun r'' hop p hp => ?_
    cases hop
    have hmem : p ∈ l ∨ p ∈ r.todo.dropLast := by
      rw [htodo] at hp
      by_cases hr : r.todo = []
      · rw [hr, List.append_nil] at hp
        exact .inl (List.mem_of_mem_dropLast hp)
      · rwa [List.dropLast_append_of_ne_nil hr, List.mem_append] at hp
    rcases hmem with hp | hp
    · exact Micro.failsafe_of_commits_eq (m.commits_eq_of_mem_successors l hl p hp) i s
    · exact todo p hp
  | @ends w passed code info =>
    exact State.stands_of_op_eq_none ((record.congr passed.record).congr (w.raise_sameRecord code info)) rfl

theorem State.Stands.tick {i : Instr} {s t : State} (h : s.Stands i t) : s.Stands i t.tick := by
  cases hop : t.op with
  | none => exact (State.tick_none hop).symm ▸ h
  | some r =>
    cases htodo : r.todo with
    | nil => exact State.tick_nil hop htodo ▸ .returned rfl rfl
    | cons m rest =>
      cases h with
      | passed hop' htodo' =>
        cases hop.symm.trans hop'
        simp [htodo] at htodo'
      | returned hop' => simp [hop] at hop'
      | failsafe record todo =>
        have hdrop : ∀ p ∈ (m :: rest).dropLast, p.Failsafe i s := htodo ▸ todo r hop
        have hrest : ∀ p ∈ rest.dropLast, p.Failsafe i s := fun p hp =>
          hdrop p (List.mem_of_mem_tail (by rw [List.tail_dropLast]; exact hp))
        have leaves := Micro.run_leaves m { r with todo := rest } t
        rw [State.tick_cons hop htodo]
        rcases m.commits_eq_or_run_eq with hnone | hcommit
        · exact leaves.stands ((hnone t).symm ▸ record) hrest
        · cases rest with
          | nil =>
            rw [hcommit]
            exact .passed rfl rfl
          | cons p rest => exact leaves.stands (hdrop m (by simp) t record) hrest

/-- A launch of positions of which all but the last are failsafe. -/
theorem State.stands_launch {i : Instr} {s u : State} {f : Fsm} {l : List Micro} {finish : Finish}
    (record : s.FailsafeRecord i u) (todo : ∀ m ∈ l.dropLast, m.Failsafe i s) :
    s.Stands i (u.launch i f l finish) := by
  refine State.run_keeps (fun t ht => State.Stands.tick ht) u.fuel (.failsafe ?_ fun r hop => ?_)
  · exact record.congr ⟨rfl, rfl, rfl, rfl, rfl⟩
  · cases hop
    exact todo

/-- Before its commit the range part commits nothing (R156). -/
theorem commits_eq_of_mem_rangeSequence (row : RangeRow) :
    ∀ m ∈ (rangeSequence row).dropLast, ∀ t, m.commits t = t := by
  simp [rangeSequence, stopSequence, startSequence, Micro.commits]

/-- Before its commit the filter part commits nothing (R156). -/
theorem commits_eq_of_mem_filterSequence (orow : OdrRow) (hrow : HpfRow) :
    ∀ m ∈ (filterSequence orow hrow).dropLast, ∀ t, m.commits t = t := by
  simp [filterSequence, stopSequence, startSequence, Micro.commits]

/-- The commit of the range part of a `configure` (R158). -/
theorem Micro.commitRange_failsafe {s : State} {d : Decimal} {k : RangeRow} (hk : lookupRange s.cfg.rangeTable d = some k)
    (odr : Decimal) (h : Int) : (Micro.commitRange k.key).Failsafe (.configure d odr h) s := by
  intro t ht
  have hscale : (t.commitRange k.key).scale = some (scaleOf s.cfg.numerics k.key) := by rw [← ht.cfg]; rfl
  exact ⟨ht.cfg, ht.odrSel, ht.hpfSel, .inr ⟨d, odr, h, k, rfl, hk, rfl, hscale⟩⟩

/-- Of the positions of a configuration operation all but the last are failsafe: the range part of a `configure` may have
been committed (R158). -/
theorem SequenceOf.failsafe {i : Instr} {s : State} {l : List Micro} (h : SequenceOf s.cfg i l) :
    ∀ m ∈ l.dropLast, m.Failsafe i s := by
  cases h with
  | @setRange _ k =>
    exact fun m hm => Micro.failsafe_of_commits_eq (commits_eq_of_mem_rangeSequence k m hm) _ s
  | @setFilter _ _ row hrow =>
    exact fun m hm => Micro.failsafe_of_commits_eq (commits_eq_of_mem_filterSequence row hrow m hm) _ s
  | @configure d odr h k row hrow hk =>
    have hrange : rangeSequence k = (rangeSequence k).dropLast ++ [.commitRange k.key] := rfl
    rw [List.dropLast_append_of_ne_nil (by simp [filterSequence, stopSequence]),
      hrange]
    refine List.forall_mem_append.mpr ⟨List.forall_mem_append.mpr ⟨fun m hm => ?_, ?_⟩, fun m hm => ?_⟩
    · exact Micro.failsafe_of_commits_eq (commits_eq_of_mem_rangeSequence k m hm) _ s
    · exact List.forall_mem_singleton.mpr (Micro.commitRange_failsafe hk odr h)
    · exact Micro.failsafe_of_commits_eq (commits_eq_of_mem_filterSequence row hrow m hm) _ s

theorem exec_stands {i : Instr} {s t : State} (hidle : s.fsm = .idle) (h : exec i s = .next t) : s.Stands i t := by
  have same : ∀ {u : State}, s.SameRecord u → s.FailsafeRecord i u := fun hu => hu.failsafe i
  by_cases hi : i.setsRange = true ∨ i.setsFilter = true
  · rcases exec_raises_or_sequence hi hidle with ⟨code, info, -, hraised⟩ | ⟨l, hl⟩
    · cases hraised.symm.trans h
      exact State.stands_of_op_eq_none (same ⟨rfl, rfl, rfl, rfl, rfl⟩) rfl
    · cases (exec_of_sequence hl hidle).symm.trans h
      exact State.stands_launch (same ⟨rfl, rfl, rfl, rfl, rfl⟩) hl.failsafe
  · rcases exec_started h with ⟨hbusy, -⟩ | ⟨-, started⟩
    · exact absurd hidle hbusy
    · cases started with
      | returns => exact .returned rfl rfl
      | raises => exact State.stands_of_op_eq_none (same ⟨rfl, rfl, rfl, rfl, rfl⟩) rfl
      | launches acc fits =>
        refine State.stands_launch (same ⟨rfl, rfl, rfl, rfl, rfl⟩) fun m hm => ?_
        have hmay := fits.may m (List.mem_of_mem_dropLast hm)
        exact Micro.failsafe_of_commits_eq (Micro.commits_eq_of_may hmay hi) i s

/-- Settles O34: an operation that has ended with an error has not returned, so it stands where it may have failed. -/
theorem failureKeepsTheRecord : Obligations.FailureKeepsTheRecord := by
  intro i s t hidle h hend herr
  cases exec_stands hidle h with
  | failsafe record => exact ⟨record.odrSel, record.hpfSel, record.range⟩
  | passed hop => simp [hend] at hop
  | returned _ hok => exact absurd hok herr

end Sys2Proof.Machine
end

section
/-! SUPPORT. The sample decoder on its 20-bit words (R170, R172). -/

namespace Sys2Proof.Machine

/-- The three parts of `decode_raw20` do not overlap, so their union is their sum (R170). -/
theorem toNat_decodeRaw20 (h m l : Byte) :
    (decodeRaw20 h m l).toNat = h.toNat * 4096 + m.toNat * 16 + l.toNat / 16 := by
  have hh := h.isLt
  have hm := m.isLt
  have hl := l.isLt
  have high : ((h.setWidth 20) <<< 12).toNat = h.toNat <<< 12 := by
    simp only [BitVec.toNat_shiftLeft, BitVec.toNat_setWidth, Nat.shiftLeft_eq]
    omega
  have mid : ((m.setWidth 20) <<< 4).toNat = m.toNat <<< 4 := by
    simp only [BitVec.toNat_shiftLeft, BitVec.toNat_setWidth, Nat.shiftLeft_eq]
    omega
  have low : ((l >>> 4).setWidth 20).toNat = l.toNat / 16 := by
    simp only [BitVec.toNat_setWidth, BitVec.toNat_ushiftRight, Nat.shiftRight_eq_div_pow]
    omega
  have midLow : m.toNat <<< 4 ||| l.toNat / 16 = m.toNat <<< 4 + l.toNat / 16 :=
    (Nat.shiftLeft_add_eq_or_of_lt (by omega) _).symm
  have highRest : h.toNat <<< 12 ||| (m.toNat <<< 4 + l.toNat / 16) = h.toNat <<< 12 + (m.toNat <<< 4 + l.toNat / 16) :=
    (Nat.shiftLeft_add_eq_or_of_lt (by rw [Nat.shiftLeft_eq]; omega) _).symm
  rw [decodeRaw20, BitVec.toNat_or, BitVec.toNat_or, high, mid, low, Nat.or_assoc, midLow, highRest,
    Nat.shiftLeft_eq, Nat.shiftLeft_eq, Nat.add_assoc]

/-- Settles O36: the word of the three bytes, returned where the operation is taken. -/
theorem decodeRaw20Result : Obligations.DecodeRaw20Result := by
  intro h m l s hidle
  refine ⟨decodeRaw20 h m l, toNat_decodeRaw20 h m l, ?_⟩
  rw [exec]
  exact State.accept_eq_next hidle (State.begin_deliver s _)

/-- The test of `sign_extend20` is on the sign bit of the 20-bit word (R172). -/
theorem and_bit19_ne_zero_iff (raw : Raw20) : raw &&& 0x80000 ≠ 0 ↔ raw.msb = true := by
  have mask : (0x80000 : Raw20) = BitVec.twoPow 20 19 := rfl
  rw [mask, BitVec.and_twoPow, BitVec.msb_eq_getLsbD_last]
  cases raw.getLsbD 19 <;> decide

/-- `sign_extend20` is the two's complement reading of the word (R172). -/
theorem signExtend20_eq_toInt (raw : Raw20) : signExtend20 raw = raw.toInt := by
  simp only [signExtend20, and_bit19_ne_zero_iff, BitVec.toInt_eq_msb_cond]
  rfl

/-- Settles O37: the two's complement reading, returned where the operation is taken. -/
theorem signExtendResult : Obligations.SignExtendResult := by
  intro raw s hidle
  have value : signExtend20 raw =
      if raw.toNat < 0x80000 then (raw.toNat : Int) else (raw.toNat : Int) - 0x100000 := by
    rw [signExtend20_eq_toInt, BitVec.toInt_eq_toNat_cond]
    split <;> split <;> omega
  rw [exec, ← value]
  exact State.accept_eq_next hidle (State.begin_deliver s _)

/-- Settles O38: the two's complement reading is injective, and `BitVec.ofInt` is its inverse on the range. -/
theorem signExtensionIsABijection : Obligations.SignExtensionIsABijection := by
  refine ⟨fun raw => ?_, fun v hlo hhi => ⟨BitVec.ofInt 20 v, ?_, fun raw hraw => ?_⟩⟩
  · have hle := raw.le_toInt
    have hlt := raw.toInt_lt
    rw [signExtend20_eq_toInt]
    omega
  · show signExtend20 (BitVec.ofInt 20 v) = v
    rw [signExtend20_eq_toInt, BitVec.toInt_ofInt_eq_self (by decide) (by omega) (by omega)]
  · rw [← hraw, signExtend20_eq_toInt, BitVec.ofInt_toInt]

end Sys2Proof.Machine
end

section
/-! SUPPORT. The binary64 operations as roundings of exact numbers (R173 to R175), and what a finite number's sign and value
say of its bits. -/

namespace Sys2Proof.Machine

/-! ### The bits of a finite number -/

/-- The sign that `unpack` reads is bit 63. -/
theorem sign_of_unpack {c : F64} {s : Bool} {m : Nat} {e : Int} (h : unpack c = .finite s m e) : s = c.getLsbD 63 := by
  simp only [unpack] at h
  split at h
  · split at h <;> cases h
  · split at h
    all_goals cases h; rfl

/-- A number with a value is finite, and the value is the one its parts spell. -/
theorem unpack_of_f64Value {c : F64} {x : ℚ} (h : f64Value c = some x) :
    ∃ m e, unpack c = .finite (c.getLsbD 63) m e ∧
      x = (if c.getLsbD 63 then -1 else 1) * (m : ℚ) * (2 : ℚ) ^ e := by
  cases hu : unpack c with
  | finite s m e =>
    rw [f64Value_of_unpack hu] at h
    exact ⟨m, e, by rw [sign_of_unpack hu], by rw [← sign_of_unpack hu, ← Option.some.inj h]⟩
  | infinite s => simp [f64Value, hu] at h
  | nan => simp [f64Value, hu] at h

/-- The sign bit and the 63 bits below it. -/
theorem eq_signBit_add (c : F64) : c = BitVec.ofNat 64 (signBit (c.getLsbD 63) + c.toNat % 2 ^ 63) := by
  apply BitVec.eq_of_toNat_eq
  have hc := c.isLt
  have hlow : c.toNat % 2 ^ 63 < 2 ^ 63 := Nat.mod_lt _ (by norm_num)
  have hsign : c.getLsbD 63 = decide (c.toNat / 2 ^ 63 % 2 = 1) := Nat.testBit_eq_decide_div_mod_eq
  rw [signBit_add_toNat hlow, hsign, signBit]
  split <;> rename_i h <;> simp only [decide_eq_true_eq] at h <;> omega

/-- A finite number is a significand at a place, of 53 bits above the least place: the converse of `f64Value_place`. -/
theorem place_of_f64Value {c : F64} {x : ℚ} (h : f64Value c = some x) :
    ∃ k m, m < 2 ^ 53 ∧ (0 < k → 2 ^ 52 ≤ m) ∧ k * 2 ^ 52 + m < 2047 * 2 ^ 52 ∧
      c = BitVec.ofNat 64 (signBit (c.getLsbD 63) + (k * 2 ^ 52 + m)) ∧
      x = (if c.getLsbD 63 then -1 else 1) * (m : ℚ) * (2 : ℚ) ^ ((k : Int) - 1074) := by
  obtain ⟨n, hn⟩ : ∃ n, n = c.toNat % 2 ^ 63 := ⟨_, rfl⟩
  have hc := hn ▸ eq_signBit_add c
  have hlt : n < 2047 * 2 ^ 52 := by
    by_contra hge
    obtain ⟨m, e, hu, -⟩ := unpack_of_f64Value h
    have hexp : c.toNat / 2 ^ 52 % 2 ^ 11 = 2047 := by omega
    simp only [unpack, hexp, if_true] at hu
    split at hu <;> cases hu
  obtain ⟨k, m, hm, hk, hnk⟩ : ∃ k m, m < 2 ^ 53 ∧ (0 < k → 2 ^ 52 ≤ m) ∧ n = k * 2 ^ 52 + m := by
    rcases Nat.lt_or_ge n (2 ^ 52) with hsub | hnormal
    · exact ⟨0, n, by omega, by omega, by omega⟩
    · exact ⟨n / 2 ^ 52 - 1, 2 ^ 52 + n % 2 ^ 52, by omega, by omega, by omega⟩
  rw [hnk] at hc hlt
  have hvalue := f64Value_place (s := c.getLsbD 63) hm.le hk hlt
  rw [← hc, h] at hvalue
  exact ⟨k, m, hm, hk, hlt, hc, Option.some.inj hvalue⟩

/-- The sign of a number as a factor. -/
theorem abs_sign_mul (s : Bool) (q : ℚ) : |(if s then -1 else 1) * q| = |q| := by
  cases s <;> simp

theorem sign_xor (s s' : Bool) :
    (if s ^^ s' then -1 else 1 : ℚ) = (if s then -1 else 1) * (if s' then -1 else 1) := by
  cases s <;> cases s' <;> simp

theorem sign_xor_eq_div (s s' : Bool) :
    (if s ^^ s' then -1 else 1 : ℚ) = (if s then -1 else 1) / (if s' then -1 else 1) := by
  cases s <;> cases s' <;> simp

/-- A significand of 53 bits at one place is less than the least one of 53 bits at the next. -/
theorem place_le_of_lt {e e' : Int} (h : (2 : ℚ) ^ 52 * 2 ^ e' < 2 ^ 53 * 2 ^ e) : e' ≤ e := by
  by_contra hlt
  have hpow : (2 : ℚ) ^ (e + 1) ≤ 2 ^ e' := zpow_le_zpow_right₀ (by norm_num) (by omega)
  rw [zpow_add_one₀ (by norm_num)] at hpow
  linarith

/-- Two significands, each of 53 bits above the least place, that are the same number stand at the same place. -/
theorem place_le_of_eq {k k' m m' : Nat} (hm : m < 2 ^ 53) (hk' : 0 < k' → 2 ^ 52 ≤ m')
    (h : (m : ℚ) * 2 ^ ((k : Int) - 1074) = m' * 2 ^ ((k' : Int) - 1074)) : k' ≤ k := by
  rcases Nat.eq_zero_or_pos k' with hzero | hpos
  · omega
  · have hm' : (2 : ℚ) ^ 52 ≤ m' := by exact_mod_cast hk' hpos
    have hmq : (m : ℚ) < 2 ^ 53 := by exact_mod_cast hm
    have hlt : (2 : ℚ) ^ 52 * 2 ^ ((k' : Int) - 1074) < 2 ^ 53 * 2 ^ ((k : Int) - 1074) :=
      calc (2 : ℚ) ^ 52 * 2 ^ ((k' : Int) - 1074) ≤ m' * 2 ^ ((k' : Int) - 1074) := by gcongr
        _ = m * 2 ^ ((k : Int) - 1074) := h.symm
        _ < 2 ^ 53 * 2 ^ ((k : Int) - 1074) := by gcongr
    have := place_le_of_lt hlt
    omega

/-- A finite number is told by its sign and its value; without the sign the two zeros are not told apart. -/
theorem f64Value_injective {c c' : F64} {x : ℚ} (h : f64Value c = some x) (h' : f64Value c' = some x)
    (hsign : c.getLsbD 63 = c'.getLsbD 63) : c = c' := by
  obtain ⟨k, m, hm, hk, -, hc, hx⟩ := place_of_f64Value h
  obtain ⟨k', m', hm', hk', -, hc', hx'⟩ := place_of_f64Value h'
  have hmag : (m : ℚ) * 2 ^ ((k : Int) - 1074) = m' * 2 ^ ((k' : Int) - 1074) := by
    have := congrArg abs (hx.symm.trans hx')
    rw [mul_assoc, mul_assoc, abs_sign_mul, abs_sign_mul] at this
    rwa [abs_of_nonneg (by positivity), abs_of_nonneg (by positivity)] at this
  obtain rfl : k = k' := le_antisymm (place_le_of_eq hm' hk hmag.symm) (place_le_of_eq hm hk' hmag)
  obtain rfl : m = m' := by exact_mod_cast mul_right_cancel₀ (by positivity) hmag
  rw [hc, hc', hsign]

/-- The largest finite number stands below the overflow threshold. -/
theorem abs_f64Value_lt {c : F64} {x : ℚ} (h : f64Value c = some x) : |x| < 2 ^ 1024 - 2 ^ 970 := by
  obtain ⟨k, m, hm, hk, hlt, -, rfl⟩ := place_of_f64Value h
  have hplace : k ≤ 2045 := by
    rcases Nat.eq_zero_or_pos k with hzero | hpos
    · omega
    · have := hk hpos
      omega
  have hmq : (m : ℚ) ≤ 2 ^ 53 - 1 := by
    have : (m : ℚ) + 1 ≤ 2 ^ 53 := by exact_mod_cast hm
    linarith
  have hpow : (2 : ℚ) ^ ((k : Int) - 1074) ≤ 2 ^ 971 := by
    rw [← zpow_natCast]
    exact zpow_le_zpow_right₀ (by norm_num) (by push_cast; omega)
  have hnonneg : (0 : ℚ) ≤ (m : ℚ) * 2 ^ ((k : Int) - 1074) := mul_nonneg m.cast_nonneg (zpow_nonneg (by norm_num) _)
  rw [mul_assoc, abs_sign_mul, abs_of_nonneg hnonneg]
  have hle : (m : ℚ) * 2 ^ ((k : Int) - 1074) ≤ (2 ^ 53 - 1) * 2 ^ 971 :=
    mul_le_mul hmq hpow (zpow_nonneg (by norm_num) _) (by norm_num)
  have h971 : (2 : ℚ) ^ 971 = 2 ^ 970 * 2 := by rw [← pow_succ]
  have h1024 : (2 : ℚ) ^ 1024 = 2 ^ 970 * 2 ^ 54 := by rw [← pow_add]
  have hpos : (0 : ℚ) < 2 ^ 970 := by positivity
  rw [h971] at hle
  rw [h1024]
  generalize (2 : ℚ) ^ 970 = y at hle hpos ⊢
  linarith

/-- Every significand of at most 53 bits at a place below the largest is a finite number: it is moved to a lower place until
it has 53 bits or stands at the least. -/
theorem exists_f64Value (s : Bool) {k m : Nat} (hm : m < 2 ^ 53) (hk : k ≤ 2045) :
    ∃ c, f64Value c = some ((if s then -1 else 1) * (m : ℚ) * (2 : ℚ) ^ ((k : Int) - 1074)) := by
  induction k generalizing m with
  | zero => exact ⟨_, f64Value_place hm.le (by simp) (by omega)⟩
  | succ k ih =>
    rcases Nat.lt_or_ge m (2 ^ 52) with hsmall | hfull
    · obtain ⟨c, hc⟩ := ih (m := 2 * m) (by omega) (by omega)
      refine ⟨c, hc.trans (congrArg some ?_)⟩
      rw [Nat.cast_succ, add_sub_right_comm, zpow_add_one₀ (by norm_num)]
      push_cast
      ring
    · exact ⟨_, f64Value_place hm.le (fun _ => hfull) (by omega)⟩

/-! ### An operation as a rounding -/

/-- `r` is the rounding `roundRat` makes of the exact number `x`, written in some way as a sign and a quotient. -/
def IsRounding (r : F64) (s : Bool) (x : ℚ) : Prop :=
  ∃ num den : Nat, 0 < den ∧ (if s then -1 else 1) * ((num : ℚ) / den) = x ∧ r = roundRat s num den

/-- Such a rounding is the one of R175. -/
theorem IsRounding.roundsTo {r : F64} {s : Bool} {x : ℚ} (h : IsRounding r s x) : RoundsTo r s x := by
  obtain ⟨num, den, hden, rfl, rfl⟩ := h
  exact roundRat_roundsTo s num hden

theorem fmul_isRounding (k : Nat) {a b : F64} {x y : ℚ} (ha : f64Value a = some x) (hb : f64Value b = some y) :
    IsRounding (fmul k a b) (a.getLsbD 63 ^^ b.getLsbD 63) (x * y) := by
  obtain ⟨m, e, hua, rfl⟩ := unpack_of_f64Value ha
  obtain ⟨m', e', hub, rfl⟩ := unpack_of_f64Value hb
  refine ⟨m * m' * pow2 (e + e'), pow2 (-(e + e')), Nat.pow_pos (by norm_num), ?_, by rw [fmul, hua, hub]⟩
  have hq := pow2_ratio (-(e + e')) (m * m') 1
  rw [neg_neg, one_mul, div_one, zpow_neg, div_inv_eq_mul] at hq
  rw [Nat.cast_mul, Nat.cast_mul, hq, sign_xor, zpow_add₀ (by norm_num)]
  ring

theorem fdiv_isRounding (k : Nat) {a b : F64} {x y : ℚ} (ha : f64Value a = some x) (hb : f64Value b = some y) (hy : y ≠ 0) :
    IsRounding (fdiv k a b) (a.getLsbD 63 ^^ b.getLsbD 63) (x / y) := by
  obtain ⟨m, e, hua, rfl⟩ := unpack_of_f64Value ha
  obtain ⟨m', e', hub, rfl⟩ := unpack_of_f64Value hb
  have hm' : m' ≠ 0 := by
    rintro rfl
    simp at hy
  refine ⟨m * pow2 (e - e'), m' * pow2 (e' - e), Nat.mul_pos (by omega) (Nat.pow_pos (by norm_num)), ?_,
    by rw [fdiv, hua, hub]; exact if_neg hm'⟩
  have hq := pow2_ratio (e' - e) m m'
  rw [neg_sub] at hq
  rw [Nat.cast_mul, Nat.cast_mul, hq, sign_xor_eq_div, zpow_sub₀ (by norm_num)]
  field_simp

/-- A sign and a magnitude are the integer. -/
theorem sign_mul_natAbs (v : Int) : (if decide (v < 0) then -1 else 1) * (v.natAbs : ℚ) = v := by
  rw [Nat.cast_natAbs]
  by_cases h : v < 0
  · simp [h, abs_of_neg h]
  · simp [h, abs_of_nonneg (not_lt.mp h)]

theorem floatOfInt_isRounding (v : Int) : IsRounding (floatOfInt v) (decide (v < 0)) v :=
  ⟨v.natAbs, 1, Nat.one_pos, by rw [Nat.cast_one, div_one, sign_mul_natAbs], rfl⟩

theorem floatOfDecimal_isRounding (d : Decimal) :
    IsRounding (floatOfDecimal d) (decide (d.num < 0)) ((d.num : ℚ) / 10 ^ d.exp) :=
  ⟨d.num.natAbs, 10 ^ d.exp, Nat.pow_pos (by norm_num),
    by rw [← mul_div_assoc, sign_mul_natAbs, Nat.cast_pow, Nat.cast_ofNat], rfl⟩

/-- Settles O40: each operation is `roundRat` of its exact result. -/
theorem arithmeticRoundsOnce : Obligations.ArithmeticRoundsOnce :=
  ⟨fun k _ _ _ _ ha hb =>
      ⟨(fmul_isRounding k ha hb).roundsTo, fun hy => (fdiv_isRounding k ha hb hy).roundsTo⟩,
    fun v => (floatOfInt_isRounding v).roundsTo, fun d => (floatOfDecimal_isRounding d).roundsTo⟩

/-! ### Exact results -/

/-- What is a finite number already is not rounded. -/
theorem RoundsTo.exact {r c : F64} {s : Bool} {x : ℚ} (h : RoundsTo r s x) (hc : f64Value c = some x) :
    f64Value r = some x := by
  obtain ⟨z, hz, near⟩ := h.nearest (abs_f64Value_lt hc)
  have hzero : |z - x| ≤ 0 := by simpa using (near c x hc).1
  rw [hz, sub_eq_zero.mp (abs_nonpos_iff.mp hzero)]

/-- The conversion of an integer of at most 53 bits is exact. -/
theorem f64Value_floatOfInt {v : Int} (h : v.natAbs < 2 ^ 53) : f64Value (floatOfInt v) = some (v : ℚ) := by
  obtain ⟨c, hc⟩ := exists_f64Value (decide (v < 0)) h (k := 1074) (by norm_num)
  refine (floatOfInt_isRounding v).roundsTo.exact (hc.trans (congrArg some ?_))
  rw [sign_mul_natAbs]
  norm_num

/-- Settles O41: 20 bits fit the significand. -/
theorem integerConversionIsExact : Obligations.IntegerConversionIsExact := by
  intro v hlo hhi
  obtain ⟨m, e, hu, hv⟩ := unpack_of_f64Value (f64Value_floatOfInt (v := v) (by omega))
  exact ⟨_, m, e, hu, hv⟩

end Sys2Proof.Machine
end

section
/-! SUPPORT. The scale factors and the conversion to g (R173 to R175, R177 (c)): doubling an exact result doubles its
rounding. -/

namespace Sys2Proof.Machine

/-! ### The scale factors (R174) -/

/-- The expression in binary64, by the results of its three roundings. -/
theorem scaleOf_binary64_eq {d : Decimal} {a b c : F64} (key : floatOfDecimal d = a) (twice : fmul 0 (floatOfInt 2) a = b)
    (step : fdiv 0 b (floatOfInt 1048576) = c) : scaleOf .binary64 d = .binary64 c := by
  rw [← step, ← twice, ← key]
  rfl

theorem floatOfDecimal_2048 : floatOfDecimal ⟨2048, 3⟩ = 0x4000624DD2F1A9FC := by decide
theorem floatOfDecimal_4096 : floatOfDecimal ⟨4096, 3⟩ = 0x4010624DD2F1A9FC := by decide
theorem floatOfDecimal_8192 : floatOfDecimal ⟨8192, 3⟩ = 0x4020624DD2F1A9FC := by decide

theorem scaleOf_2048 : scaleOf .binary64 ⟨2048, 3⟩ = .binary64 0x3ED0624DD2F1A9FC :=
  scaleOf_binary64_eq (b := 0x4010624DD2F1A9FC) floatOfDecimal_2048 (by decide) (by decide)

theorem scaleOf_4096 : scaleOf .binary64 ⟨4096, 3⟩ = .binary64 0x3EE0624DD2F1A9FC :=
  scaleOf_binary64_eq (b := 0x4020624DD2F1A9FC) floatOfDecimal_4096 (by decide) (by decide)

theorem scaleOf_8192 : scaleOf .binary64 ⟨8192, 3⟩ = .binary64 0x3EF0624DD2F1A9FC :=
  scaleOf_binary64_eq (b := 0x4030624DD2F1A9FC) floatOfDecimal_8192 (by decide) (by decide)

/-- The expression in exact arithmetic. -/
theorem scaleOf_exact (d : Decimal) :
    scaleOf .exact d = .exact (2 * ((d.num : ℚ) / 10 ^ d.exp) / 1048576) := by
  have key : mkRat d.num (10 ^ d.exp) = (d.num : ℚ) / 10 ^ d.exp := by
    rw [Rat.mkRat_eq_div]
    push_cast
    rfl
  rw [← key]
  rfl

/-- Settles O43: in binary64 each factor by the three roundings of its expression, in exact arithmetic by the fraction. -/
theorem scaleFactors : Obligations.ScaleFactors := by
  refine ⟨scaleOf_2048, scaleOf_4096, scaleOf_8192, by decide, by decide, by decide,
    floatOfDecimal_2048, floatOfDecimal_4096, floatOfDecimal_8192, ?_, ?_, ?_⟩
  all_goals
    rw [scaleOf_exact]
    norm_num

/-! ### The conversion to g (R173) -/

theorem exec_toG {s : State} (hidle : s.fsm = .idle) (raw : Int) (f : Number) :
    exec (.toG raw f) s = .next (s.returned s.env (.float (toG s.cfg.numerics s.freeSeq raw f))) := by
  rw [exec]
  exact State.accept_eq_next hidle (State.begin_deliver s _)

/-- A zero times a non-negative finite number is +0.0. -/
theorem fmul_zero_of_lt (k : Nat) {b : F64} (hb : b.toNat < 0x7FF0000000000000) : fmul k (floatOfInt 0) b = 0 := by
  have hzero : unpack (floatOfInt 0) = .finite false 0 (-1074) := by decide
  obtain ⟨m, e, hu⟩ : ∃ m e, unpack b = .finite false m e := by
    have hb' : b = BitVec.ofNat 64 (signBit false + b.toNat) := by simp [signBit]
    rw [hb', unpack_signBit_add (by omega)]
    split
    exacts [⟨_, _, rfl⟩, ⟨_, _, rfl⟩]
  simp [fmul, hzero, hu, roundRat, signBit]

/-- Settles O39: the product where the operation is taken, by the format `NUMERICS`. -/
theorem toGResult : Obligations.ToGResult := by
  intro raw f s hidle
  refine ⟨exec_toG hidle raw f, fun b hnum hf => ?_, fun q hnum hf => ?_⟩
  · rw [hnum, hf]
    exact ⟨rfl, fun hb => congrArg Number.binary64 (fmul_zero_of_lt _ hb)⟩
  · rw [hnum, hf]
    rfl

/-! ### Twice a rounding (R177 (c)) -/

/-- A common factor of both parts of a quotient is not seen by its rounding. -/
theorem roundEven_mul_right (n d : Nat) {c : Nat} (hc : 0 < c) : roundEven (n * c) (d * c) = roundEven n d := by
  have htie : 2 * (n % d * c) = d * c ↔ 2 * (n % d) = d := by
    rw [← mul_assoc, Nat.mul_left_inj hc.ne']
  have hlt : d * c < 2 * (n % d * c) ↔ d < 2 * (n % d) := by
    rw [← mul_assoc, Nat.mul_lt_mul_right hc]
  simp only [roundEven, Nat.mul_div_mul_right n d hc, Nat.mul_mod_mul_right, htie, hlt]

theorem roundEven_congr {n d n' d' : Nat} (hd : 0 < d) (hd' : 0 < d') (h : (n : ℚ) / d = n' / d') :
    roundEven n d = roundEven n' d' := by
  have hdq : (d : ℚ) ≠ 0 := by exact_mod_cast hd.ne'
  have hdq' : (d' : ℚ) ≠ 0 := by exact_mod_cast hd'.ne'
  have hcross : n * d' = n' * d := by exact_mod_cast (div_eq_div_iff hdq hdq').mp h
  rw [← roundEven_mul_right n d hd', ← roundEven_mul_right n' d' hd, hcross, mul_comm d d']

/-- A quotient of 53 bits at a place has its last place there. -/
theorem lastPlace_eq {num den : Nat} (hn : num ≠ 0) (hd : 0 < den) {e : Int} (he : -1074 ≤ e)
    (hlo : 2 ^ 52 * (2 : ℚ) ^ e ≤ num / den) (hhi : (num : ℚ) / den < 2 ^ 53 * 2 ^ e) : lastPlace num den = e := by
  obtain ⟨hmin, hlt, hle⟩ := lastPlace_spec hn hd
  refine le_antisymm ?_ (place_le_of_lt (hlo.trans_lt hlt))
  rcases eq_or_lt_of_le hmin with heq | hgt
  · exact heq ▸ he
  · exact place_le_of_lt ((hle hgt).trans_lt hhi)

/-- The last place of a quotient that is not below the normal numbers moves with it. -/
theorem lastPlace_double {num den num' den' : Nat} (hn : num ≠ 0) (hd : 0 < den) (hn' : num' ≠ 0) (hd' : 0 < den')
    (hnormal : (2 : ℚ) ^ (-1022 : Int) ≤ num / den) (h : (num' : ℚ) / den' = 2 * (num / den)) :
    lastPlace num' den' = lastPlace num den + 1 := by
  obtain ⟨hmin, hlt, hle⟩ := lastPlace_spec hn hd
  have hfull : 2 ^ 52 * (2 : ℚ) ^ lastPlace num den ≤ num / den := by
    rcases eq_or_lt_of_le hmin with heq | hgt
    · rw [← heq, ← zpow_natCast, ← zpow_add₀ (by norm_num)]
      exact hnormal
    · exact hle hgt
  refine lastPlace_eq hn' hd' (by omega) ?_ ?_
  all_goals
    rw [h, zpow_add_one₀ (by norm_num)]
    linarith

/-- A quotient below a whole number is rounded to at most that number. -/
theorem roundEven_le {n d c : Nat} (h : n < d * c) : roundEven n d ≤ c := by
  have hq : n / d < c := Nat.div_lt_of_lt_mul h
  simp only [roundEven]
  split <;> omega

/-- A quotient from a whole number on is rounded to at least that number. -/
theorem le_roundEven {n d c : Nat} (hd : 0 < d) (h : c * d ≤ n) : c ≤ roundEven n d := by
  have hq : c ≤ n / d := (Nat.le_div_iff_mul_le hd).mpr h
  simp only [roundEven]
  split <;> omega

/-- The whole number that `roundRat` keeps of a quotient, counted in last places. -/
def significand (num den : Nat) : Nat :=
  roundEven (num * pow2 (-lastPlace num den)) (den * pow2 (lastPlace num den))

/-- It has at most 53 bits, or is the next power of two, and above the least place no fewer. -/
theorem significand_bounds {num den : Nat} (hn : num ≠ 0) (hd : 0 < den) :
    significand num den ≤ 2 ^ 53 ∧ (-1074 < lastPlace num den → 2 ^ 52 ≤ significand num den) := by
  obtain ⟨-, hlt, hle⟩ := lastPlace_spec hn hd
  have hratio := pow2_ratio (lastPlace num den) num den
  have hD : 0 < den * pow2 (lastPlace num den) := Nat.mul_pos hd (Nat.pow_pos (by norm_num))
  have hDq : (0 : ℚ) < den * pow2 (lastPlace num den) := by exact_mod_cast hD
  have hu : (0 : ℚ) < 2 ^ lastPlace num den := zpow_pos (by norm_num) _
  refine ⟨roundEven_le ?_, fun h => le_roundEven hD ?_⟩
  · rw [← div_lt_iff₀ hu, ← hratio, div_lt_iff₀' hDq] at hlt
    exact_mod_cast hlt
  · have := hle h
    rw [← le_div_iff₀ hu, ← hratio, le_div_iff₀ hDq] at this
    exact_mod_cast this

/-- The value of a rounding that is finite: its significand at the last place. -/
theorem f64Value_roundRat {s : Bool} {num den : Nat} (hn : num ≠ 0) (hd : 0 < den) {z : ℚ}
    (h : f64Value (roundRat s num den) = some z) :
    z = (if s then -1 else 1) * (significand num den : ℚ) * 2 ^ lastPlace num den := by
  obtain ⟨hle, hfull⟩ := significand_bounds hn hd
  obtain ⟨k, hk⟩ : ∃ k : Nat, lastPlace num den = (k : Int) - 1074 :=
    ⟨(lastPlace num den + 1074).toNat, by have := (lastPlace_spec hn hd).1; omega⟩
  have hbits : roundRat s num den = if 2047 * 2 ^ 52 ≤ k * 2 ^ 52 + significand num den then infinity s
      else BitVec.ofNat 64 (signBit s + (k * 2 ^ 52 + significand num den)) := by
    have hplace : (lastPlace num den + 1074).toNat = k := by omega
    rw [roundRat, if_neg hn]
    simp only [hplace]
    rfl
  rw [hbits] at h
  split at h
  case isTrue =>
    have hinf : f64Value (infinity s) = none := by cases s <;> decide
    simp [hinf] at h
  case isFalse hfin =>
    rw [f64Value_place hle (fun hpos => hfull (by omega)) (not_le.mp hfin)] at h
    rw [hk, ← Option.some.inj h]

/-- The significand of twice a quotient is the same, one place higher. -/
theorem significand_double {num den num' den' : Nat} (hd : 0 < den) (hd' : 0 < den')
    (hplace : lastPlace num' den' = lastPlace num den + 1) (h : (num' : ℚ) / den' = 2 * (num / den)) :
    significand num' den' = significand num den := by
  refine roundEven_congr (Nat.mul_pos hd' (Nat.pow_pos (by norm_num))) (Nat.mul_pos hd (Nat.pow_pos (by norm_num))) ?_
  push_cast
  rw [pow2_ratio, pow2_ratio, hplace, h, zpow_add_one₀ (by norm_num), mul_comm (2 ^ _) (2 : ℚ),
    mul_div_mul_left _ _ (by norm_num)]

/-- Twice an exact number that is not below the normal numbers is rounded to twice its rounding, where both are finite. -/
theorem IsRounding.value_double {r r' : F64} {s : Bool} {x z z' : ℚ} (h : IsRounding r s x) (h' : IsRounding r' s (2 * x))
    (hz : f64Value r = some z) (hz' : f64Value r' = some z') (hnormal : (2 : ℚ) ^ (-1022 : Int) ≤ |x|) : z' = 2 * z := by
  obtain ⟨num, den, hd, rfl, rfl⟩ := h
  obtain ⟨num', den', hd', hx', rfl⟩ := h'
  have hq : (num' : ℚ) / den' = 2 * (num / den) := by
    refine mul_left_cancel₀ (a := if s then -1 else 1) (by cases s <;> simp) ?_
    rw [hx', mul_left_comm]
  rw [abs_sign_mul, abs_of_nonneg (by positivity)] at hnormal
  have hpos : (0 : ℚ) < num / den := lt_of_lt_of_le (by positivity) hnormal
  have hn : num ≠ 0 := by
    rintro rfl
    simp at hpos
  have hn' : num' ≠ 0 := by
    rintro rfl
    rw [Nat.cast_zero, zero_div] at hq
    linarith
  have hplace := lastPlace_double hn hd hn' hd' hnormal hq
  rw [f64Value_roundRat hn hd hz, f64Value_roundRat hn' hd' hz', significand_double hd hd' hplace hq, hplace,
    zpow_add_one₀ (by norm_num)]
  ring

/-- Doubling a factor doubles the product, where the product is zero or not below the normal numbers, and its double below the
overflow threshold. -/
theorem fmul_double (k : Nat) {a a' b : F64} {x y : ℚ} (ha : f64Value a = some x) (ha' : f64Value a' = some (2 * x))
    (hsign : a'.getLsbD 63 = a.getLsbD 63) (hb : f64Value b = some y)
    (hnormal : x ≠ 0 → (2 : ℚ) ^ (-1022 : Int) ≤ |x * y|) (hfin : |2 * (x * y)| < 2 ^ 1024 - 2 ^ 970) :
    fmul k a' b = fmul k (floatOfInt 2) (fmul k a b) := by
  have once := fmul_isRounding k ha hb
  have doubled := fmul_isRounding k ha' hb
  rw [hsign, mul_assoc] at doubled
  have hfin' : |x * y| < 2 ^ 1024 - 2 ^ 970 := by
    refine lt_of_le_of_lt ?_ hfin
    rw [abs_mul 2, abs_two]
    linarith [abs_nonneg (x * y)]
  obtain ⟨z, hz, -⟩ := once.roundsTo.nearest hfin'
  obtain ⟨z', hz', -⟩ := doubled.roundsTo.nearest hfin
  have twice : z' = 2 * z := by
    by_cases hx : x = 0
    · have hzero : f64Value (floatOfInt 0) = some 0 := f64Value_floatOfInt (v := 0) (by norm_num)
      subst hx
      rw [zero_mul] at once
      rw [zero_mul, mul_zero] at doubled
      have z0 := hz.symm.trans (once.roundsTo.exact hzero)
      have z0' := hz'.symm.trans (doubled.roundsTo.exact hzero)
      rw [Option.some.inj z0, Option.some.inj z0', mul_zero]
    · exact once.value_double doubled hz hz' (hnormal hx)
  have two : f64Value (floatOfInt 2) = some 2 := f64Value_floatOfInt (v := 2) (by norm_num)
  have again := (fmul_isRounding k two hz).roundsTo
  rw [← twice] at again
  refine f64Value_injective hz' (again.exact hz') ?_
  rw [again.sign, doubled.roundsTo.sign, once.roundsTo.sign, (floatOfInt_isRounding 2).roundsTo.sign]
  simp

/-- The scale factors of the table stand between 2^-18 and 1. -/
theorem scaleOf_bounds {row : RangeRow} (h : row ∈ defaultRangeTable) :
    ∃ b y, scaleOf .binary64 row.key = .binary64 b ∧ f64Value b = some y ∧ (2 : ℚ) ^ (-18 : Int) ≤ y ∧ y ≤ 1 := by
  have value : ∀ (b : F64) (m : Nat) (e : Int), unpack b = .finite false m e → f64Value b = some ((m : ℚ) * 2 ^ e) :=
    fun b m e hu => by simp [f64Value_of_unpack hu]
  simp only [defaultRangeTable, List.mem_cons, List.not_mem_nil, or_false] at h
  rcases h with rfl | rfl | rfl
  · exact ⟨_, _, scaleOf_2048, value _ 0x10624DD2F1A9FC (-70) (by decide), by norm_num, by norm_num⟩
  · exact ⟨_, _, scaleOf_4096, value _ 0x10624DD2F1A9FC (-69) (by decide), by norm_num, by norm_num⟩
  · exact ⟨_, _, scaleOf_8192, value _ 0x10624DD2F1A9FC (-68) (by decide), by norm_num, by norm_num⟩

/-- Settles O42: the converted operands double exactly, and with each factor of the table the products are normal and far from
overflow. -/
theorem toGDoubles : Obligations.ToGDoubles := by
  intro k r row hrow hlo hhi
  obtain ⟨b, y, hscale, hb, hylo, hyhi⟩ := scaleOf_bounds hrow
  have hr := f64Value_floatOfInt (v := r) (by omega)
  have hr2 := f64Value_floatOfInt (v := 2 * r) (by omega)
  rw [Int.cast_mul, Int.cast_ofNat] at hr2
  have hsign : (floatOfInt (2 * r)).getLsbD 63 = (floatOfInt r).getLsbD 63 := by
    rw [(floatOfInt_isRounding _).roundsTo.sign, (floatOfInt_isRounding _).roundsTo.sign, decide_eq_decide]
    omega
  have hy : 0 < y := lt_of_lt_of_le (by positivity) hylo
  rw [hscale]
  refine congrArg Number.binary64 (fmul_double k hr hr2 hsign hb (fun hx => ?_) ?_)
  · have hone : (1 : ℚ) ≤ |(r : ℚ)| := by exact_mod_cast Int.one_le_abs (Int.cast_ne_zero.mp hx)
    rw [abs_mul, abs_of_pos hy]
    calc (2 : ℚ) ^ (-1022 : Int) ≤ 2 ^ (-18 : Int) := zpow_le_zpow_right₀ (by norm_num) (by norm_num)
      _ ≤ y := hylo
      _ ≤ |(r : ℚ)| * y := le_mul_of_one_le_left hy.le hone
  · have hrange : |(r : ℚ)| ≤ 0x40000 := by exact_mod_cast abs_le.mpr ⟨hlo, by omega⟩
    have hmax : |((0x80000 : Int) : ℚ)| < 2 ^ 1024 - 2 ^ 970 := abs_f64Value_lt (f64Value_floatOfInt (by norm_num))
    have hprod : |(r : ℚ)| * y ≤ 0x40000 * 1 := mul_le_mul hrange hyhi hy.le (by norm_num)
    refine lt_of_le_of_lt (le_trans ?_ (le_abs_self _)) hmax
    rw [abs_mul, abs_mul, abs_of_pos hy, abs_two]
    push_cast
    linarith

end Sys2Proof.Machine
end

section
/-! SUPPORT. The fuel of a step only cuts an operation (R199): no position reads it, so a step that leaves an operation in
progress goes on where a step of more fuel would have gone on. -/

namespace Sys2Proof.Machine

/-! ### Positions do not read the fuel -/

@[simp] theorem State.withFuel_cfg (s : State) (f : Nat) : (s.withFuel f).cfg = s.cfg := rfl
@[simp] theorem State.withFuel_env (s : State) (f : Nat) : (s.withFuel f).env = s.env := rfl
@[simp] theorem State.withFuel_acc (s : State) (f : Nat) : (s.withFuel f).acc = s.acc := rfl
@[simp] theorem State.withFuel_elapsed (s : State) (f : Nat) : (s.withFuel f).elapsed = s.elapsed := rfl
@[simp] theorem State.withFuel_scale (s : State) (f : Nat) : (s.withFuel f).scale = s.scale := rfl

section
variable (f : Nat)

theorem State.busRead_withFuel {s : State} {a : Addr} {n : Nat} {k : List Byte → State → State}
    (hk : ∀ p e, k p ((s.withFuel f).withEnv e) = (k p (s.withEnv e)).withFuel f) :
    (s.withFuel f).busRead a n k = (s.busRead a n k).withFuel f := by
  rcases h : s.env.regRead s.cfg.regmap a n with ⟨e, x | p⟩
  · rw [State.busRead_error h, State.busRead_error (s := s.withFuel f) h]
    rfl
  · rw [State.busRead_ok h, State.busRead_ok (s := s.withFuel f) h]
    exact hk p e

theorem State.busWrite_withFuel (s : State) (a : Addr) (v : Byte) (r : Running) :
    ((s.withFuel f).busWrite a v fun u => u.goOn r) = (s.busWrite a v fun u => u.goOn r).withFuel f := by
  rcases h : s.env.regWrite s.cfg.regmap a v with ⟨e, x | ⟨⟩⟩
  · rw [State.busWrite_error h, State.busWrite_error (s := s.withFuel f) h]
    rfl
  · rw [State.busWrite_ok h, State.busWrite_ok (s := s.withFuel f) h]
    rfl

theorem Micro.run_withFuel (m : Micro) (r : Running) (s : State) :
    m.run r (s.withFuel f) = (m.run r s).withFuel f := by
  cases m <;> simp only [Micro.run]
  case stopRd | startRd | rangeRd | regRd | byteRd | axisRd => exact State.busRead_withFuel f fun _ _ => rfl
  case stopWr | startWr | rangeWr | filterWr | regWr => exact State.busWrite_withFuel f s _ _ r
  case commitRange | commitFilter | enterReading | accumulate | pollSleep => rfl
  case waitBegin =>
    rcases h : s.cfg.drdyPin with _ | pin <;> simp only [State.setElapsed_cfg, State.withFuel_cfg, h] <;> rfl
  case poll timeout =>
    rcases h : s.env.digitalRead (s.cfg.drdyPin.getD 0) with ⟨e, (_ | _) | info⟩ <;>
      simp only [State.withFuel_env, State.withFuel_cfg, State.withFuel_elapsed, h]
    case level.false => by_cases hlast : timeout ≤ s.elapsed <;> simp only [hlast, if_true, if_false] <;> rfl
    all_goals rfl
  case fifoX =>
    refine State.busRead_withFuel f (s := s.setSlot .x) fun p e => ?_
    split <;> rfl
  case fifoY => exact State.busRead_withFuel f (s := s.setSlot .y) fun _ _ => rfl
  case fifoZ => exact State.busRead_withFuel f (s := s.setSlot .z) fun _ _ => rfl
  case acqTest n =>
    rw [State.withFuel_acc]
    split <;> rfl

end
theorem State.tick_withFuel (f : Nat) (s : State) : (s.withFuel f).tick = s.tick.withFuel f := by
  cases hop : s.op with
  | none => rw [State.tick_none hop, State.tick_none (s := s.withFuel f) hop]
  | some r =>
    cases htodo : r.todo with
    | nil => rw [State.tick_nil hop htodo, State.tick_nil (s := s.withFuel f) hop htodo]; rfl
    | cons m rest =>
      rw [State.tick_cons hop htodo, State.tick_cons (s := s.withFuel f) hop htodo, Micro.run_withFuel]

theorem State.run_withFuel (f k : Nat) (s : State) : State.run k (s.withFuel f) = (State.run k s).withFuel f := by
  induction k generalizing s with
  | zero => rfl
  | succ k ih => rw [State.run_succ, State.tick_withFuel, ih, State.run_succ]

/-! ### An operation cut by the fuel -/

/-- What `b` makes of a core with fuel `k + j` is what it makes of the core with fuel `k`, run on for `j` positions. -/
structure State.Resumes (b : Nat → State) : Prop where
  run_on : ∀ k j, b (k + j) = (State.run j (b k)).withFuel (k + j)

section
variable (s : State)

theorem State.resumes_raise (code : ErrCode) (info : ErrInfo) :
    State.Resumes fun k => (s.withFuel k).raise code info :=
  ⟨fun k j => by rw [State.run_none j rfl]; rfl⟩

theorem State.resumes_deliver (v : Result) : State.Resumes fun k => (s.withFuel k).deliver v :=
  ⟨fun k j => by rw [State.run_none j rfl]; rfl⟩

theorem State.resumes_launch (i : Instr) (f : Fsm) (todo : List Micro) (finish : Finish) :
    State.Resumes fun k => (s.withFuel k).launch i f todo finish := by
  have launch : ∀ n, (s.withFuel n).launch i f todo finish =
      (State.run n ((s.setFsm f).goOn ⟨i, todo, finish, [], [], []⟩)).withFuel n := fun n =>
    State.run_withFuel n n ((s.setFsm f).goOn _)
  refine ⟨fun k j => ?_⟩
  rw [launch, launch, State.run_withFuel, State.run_split]
  rfl

theorem State.resumes_registerRead (i : Instr) (a : Addr) (n : Nat) :
    State.Resumes fun k => (s.withFuel k).registerRead i a n := by
  by_cases hn : n = 0
  · subst hn
    exact State.resumes_raise ..
  · simp only [State.registerRead_pos _ i a hn]
    exact State.resumes_launch ..

theorem State.resumes_registerWrite (i : Instr) (a : Addr) (v : Byte) :
    State.Resumes fun k => (s.withFuel k).registerWrite i a v :=
  State.resumes_launch ..

theorem State.resumes_acquire (i : Instr) (n : Nat) (finish : Finish) :
    State.Resumes fun k => (s.withFuel k).acquire i n finish := by
  by_cases hn : n = 0
  · subst hn
    exact ⟨fun k j => by rw [State.run_none j rfl]; rfl⟩
  · simp only [State.acquire_pos _ i hn]
    exact State.resumes_launch (s.setAcc []) ..

end

/-- A step of fuel `k + j` in which an idle core takes an operation is the step of fuel `k`, run on for `j` positions. -/
theorem State.accept_resumes {s : State} (hidle : s.fsm = .idle) {b : State → State}
    (h : State.Resumes fun k => b (s.begin.withFuel k)) (k j : Nat) :
    ∃ u, (s.withFuel k).accept b = .next u ∧
      (s.withFuel (k + j)).accept b = .next ((State.run j u).withFuel (k + j)) := by
  refine ⟨_, State.accept_idle (s := s.withFuel k) hidle b, ?_⟩
  rw [State.accept_idle (s := s.withFuel (k + j)) hidle b]
  exact congrArg _ (h.run_on k j)

/-- Whatever the operation, the step of fuel `k + j` that takes it is the step of fuel `k`, run on for `j` positions. -/
theorem exec_resumes (i : Instr) {s : State} (hidle : s.fsm = .idle) (k j : Nat) :
    ∃ u, exec i (s.withFuel k) = .next u ∧ exec i (s.withFuel (k + j)) = .next ((State.run j u).withFuel (k + j)) := by
  cases i <;> simp only [exec] <;> refine State.accept_resumes hidle ?_ k j
  case encWr | decRaw20 | sext20 => exact State.resumes_deliver ..
  case encRd a n =>
    cases encodeRead a n with
    | ok frame => exact State.resumes_deliver ..
    | error r => exact State.resumes_raise ..
  case decRsp raw =>
    cases decodeReadResponse raw with
    | ok payload => exact State.resumes_deliver ..
    | error r => exact State.resumes_raise ..
  case toG raw scale => exact State.resumes_deliver s.begin (.float (toG s.cfg.numerics s.freeSeq raw scale))
  case regRd a n =>
    by_cases hn : n = 0
    · simp only [hn, if_true]
      exact State.resumes_raise ..
    · by_cases ha : documented s.cfg.regmap a <;>
        simp only [hn, ha, State.withFuel_cfg, State.begin_cfg, if_true, if_false]
      · exact State.resumes_registerRead ..
      · exact State.resumes_raise ..
  case regWr a v =>
    by_cases ha : documented s.cfg.regmap a <;> simp only [ha, State.withFuel_cfg, State.begin_cfg, if_true]
    · exact State.resumes_registerWrite ..
    · exact State.resumes_raise ..
  case frameRd | rd1DevidAd | rd1DevidMst | rd1Partid | rd1Status | rd3Xdata | rd3Ydata | rd3Zdata | rd3FifoData |
      rd1Range | rd1PowerCtl =>
    exact State.resumes_registerRead ..
  case frameWr | wrFilter | wrRange | wrPowerCtl => exact State.resumes_registerWrite ..
  case start | stop | identify | status | waitReady | drainFifo => exact State.resumes_launch ..
  case rdAxisTriplet | rdTripletRaw => exact State.resumes_launch s.begin _ _ (tripletSequence s.cfg.readyTimeout) _
  case setRange r =>
    simp only [State.withFuel_cfg, State.begin_cfg]
    cases lookupRange s.cfg.rangeTable r with
    | none => exact State.resumes_raise ..
    | some row => exact State.resumes_launch ..
  case setFilter odr hpf =>
    simp only [State.withFuel_cfg, State.begin_cfg]
    cases lookupOdr s.cfg.odrTable odr with
    | none => exact State.resumes_raise ..
    | some orow =>
      cases lookupHpf s.cfg.hpfTable hpf with
      | none => exact State.resumes_raise ..
      | some hrow => exact State.resumes_launch ..
  case configure r odr hpf =>
    simp only [State.withFuel_cfg, State.begin_cfg]
    cases lookupRange s.cfg.rangeTable r with
    | none => exact State.resumes_raise ..
    | some row =>
      cases lookupOdr s.cfg.odrTable odr with
      | none => exact State.resumes_raise ..
      | some orow =>
        cases lookupHpf s.cfg.hpfTable hpf with
        | none => exact State.resumes_raise ..
        | some hrow => exact State.resumes_launch ..
  case rdAxisRaw selector =>
    cases axisOfSelector selector with
    | none => exact State.resumes_raise ..
    | some a => exact State.resumes_launch ..
  case rdTripletG =>
    simp only [State.withFuel_scale, State.withFuel_cfg, State.begin_scale]
    cases s.scale with
    | none => exact State.resumes_raise ..
    | some scale => exact State.resumes_launch ..
  case acqN | rdBurstRaw => exact State.resumes_acquire ..
  case rdBurstG n =>
    simp only [State.withFuel_scale, State.begin_scale]
    cases s.scale with
    | none => exact State.resumes_raise ..
    | some scale => exact State.resumes_acquire ..

/-! ### The obligation -/

theorem State.Started.resetIn {i : Instr} {s t : State} (h : s.Started i t) : t.resetIn = s.resetIn := by
  cases h with
  | returns => rfl
  | raises => rfl
  | launches =>
    obtain ⟨-, -, hreset, -⟩ := State.run_inputs ..
    exact hreset

theorem exec_resetIn {i : Instr} {s t : State} (h : exec i s = .next t) : t.resetIn = s.resetIn := by
  rcases exec_started h with ⟨-, rfl⟩ | ⟨-, started⟩
  · rfl
  · exact started.resetIn

/-- With an operation in progress and no reset a step runs it on (R199). -/
theorem step_of_op_ne_none {s : State} (hreset : s.resetIn = false) (hop : s.op ≠ none) : step s = .next s.resume := by
  have found : s.found = .inProgress := by simp [State.found, hreset, Option.isSome_iff_ne_none.mpr hop]
  rw [step, found]

/-- Settles O17: an operation that has ended stays as it is when run on, and one in progress is run on by the next step. -/
theorem cuttingAnOperationChangesNothing : Obligations.CuttingAnOperationChangesNothing := by
  intro i s k j hidle hreset
  obtain ⟨u, hu, ht⟩ := exec_resumes i hidle k j
  refine ⟨_, u, ht, hu, fun hend => ?_, fun hop => ?_⟩
  · rw [State.run_none j hend]
  · have reset : (u.withFuel j).resetIn = false := (exec_resetIn hu).trans hreset
    have resumed : (u.withFuel j).resume = (State.run j u).withFuel j := State.run_withFuel j j u
    rw [step_of_op_ne_none reset hop, resumed]
    rfl

end Sys2Proof.Machine
end

section
/-! SUPPORT. The wait for the ready line, position by position, with the four ways it ends (R190, R191). -/

namespace Sys2Proof.Machine

/-! ### Runs -/

theorem State.run_trans {k j : Nat} {s t u : State} (h : State.run k s = t) (h' : State.run j t = u) :
    State.run (k + j) s = u := by
  rw [State.run_split, h, h']

/-- An operation that has ended when `k` positions are passed, with the fuel for them (R199). -/
theorem State.launch_eq_of_run {s t : State} {i : Instr} {f : Fsm} {todo : List Micro} {finish : Finish} {k : Nat}
    (h : State.run k ((s.setFsm f).goOn ⟨i, todo, finish, [], [], []⟩) = t) (hfuel : k ≤ s.fuel) (ht : t.op = none) :
    s.launch i f todo finish = t := by
  obtain ⟨j, hj⟩ := Nat.exists_eq_add_of_le hfuel
  rw [State.launch, hj]
  exact State.run_add_none h ht

/-- An operation that has come to the end of its pseudocode when `k` positions are passed, with fuel for its return. -/
theorem State.launch_returns_of_run {s v : State} {i : Instr} {f : Fsm} {todo : List Micro} {finish : Finish} {k : Nat}
    {r : Running} (h : State.run k ((s.setFsm f).goOn ⟨i, todo, finish, [], [], []⟩) = v.goOn r) (htodo : r.todo = [])
    (hfuel : k < s.fuel) : s.launch i f todo finish = (v.goOn r).complete r :=
  State.launch_eq_of_run (State.run_done h rfl htodo) hfuel rfl

/-! ### The samples (R190) -/

theorem Env.lowFor_succ_iff {p : Pin} {d : Ticks} {j : Nat} {e e' : Env} : Env.lowFor p d (j + 1) e = some e' ↔
    ∃ e₁, e.digitalRead p = (e₁, .level false) ∧ (e₁.sleep d).lowFor p d j = some e' := by
  rw [Env.lowFor]
  split
  case _ e₁ h => simp [h]
  case _ hlow => exact iff_of_false nofun fun ⟨e₁, h, _⟩ => hlow e₁ h

/-- The `j` sleeps before sample `j + 1` are shorter than the timeout when `j` is below its number of intervals (R191). -/
theorem mul_lt_of_lt_intervals {t d i : Nat} (hd : 0 < d) (h : i < (t + d - 1) / d) : i * d < t := by
  have := (Nat.le_div_iff_mul_le hd).mp (Nat.succ_le_of_lt h)
  rw [Nat.succ_mul] at this
  omega

/-- The sleeps of all its intervals take up the timeout (R191). -/
theorem le_intervals_mul {t d : Nat} (hd : 0 < d) : t ≤ (t + d - 1) / d * d := by
  have := Nat.lt_div_mul_add (a := t + d - 1) hd
  omega

/-- One interval more (R28). -/
theorem add_interval (el d i : Nat) : el + d + i * d = el + (i + 1) * d := by ring

section
variable {u : State} {e : Env} {r : Running} {t : Ticks} {pin : Pin}

theorem Micro.run_waitBegin_of_none (hpin : u.cfg.drdyPin = none) :
    (Micro.waitBegin t).run r u = ((u.setElapsed 0).withEnv (u.env.sleep t)).setWarn.goOn r := by
  simp [Micro.run, hpin]

theorem Micro.run_waitBegin_of_pin (hpin : u.cfg.drdyPin = some pin) :
    (Micro.waitBegin t).run r u = (u.setElapsed 0).goOn { r with todo := .poll t :: r.todo } := by
  simp [Micro.run, hpin]

theorem Micro.run_poll_of_high (hpin : u.cfg.drdyPin = some pin) (h : u.env.digitalRead pin = (e, .level true)) :
    (Micro.poll t).run r u = (u.withEnv e).goOn r := by
  simp [Micro.run, hpin, h]

theorem Micro.run_poll_of_fail {i : Nat} (hpin : u.cfg.drdyPin = some pin) (h : u.env.digitalRead pin = (e, .fail i)) :
    (Micro.poll t).run r u = (u.withEnv e).raise .transportError (.transport i) := by
  simp [Micro.run, hpin, h]

theorem Micro.run_poll_of_low (hpin : u.cfg.drdyPin = some pin) (h : u.env.digitalRead pin = (e, .level false))
    (htime : u.elapsed < t) :
    (Micro.poll t).run r u = (u.withEnv e).goOn { r with todo := .pollSleep t :: r.todo } := by
  simp [Micro.run, hpin, h, Nat.not_le.mpr htime]

theorem Micro.run_poll_of_late (hpin : u.cfg.drdyPin = some pin) (h : u.env.digitalRead pin = (e, .level false))
    (htime : t ≤ u.elapsed) : (Micro.poll t).run r u = (u.withEnv e).raise .readyTimeout .none := by
  simp [Micro.run, hpin, h, htime]

/-- A sample that reads low before the timeout, and the sleep behind it. -/
theorem State.run_poll_of_low {rest : List Micro} (hpin : u.cfg.drdyPin = some pin)
    (h : u.env.digitalRead pin = (e, .level false)) (htime : u.elapsed < t) :
    State.run 2 (u.goOn { r with todo := .poll t :: rest }) =
      ((u.withEnv (e.sleep u.cfg.pollInterval)).setElapsed (u.elapsed + u.cfg.pollInterval)).goOn
        { r with todo := .poll t :: rest } := by
  have sample : (u.goOn { r with todo := .poll t :: rest }).tick =
      (u.withEnv e).goOn { r with todo := .pollSleep t :: rest } := by
    rw [State.tick_cons rfl rfl, Micro.run_poll_of_low (u := u.goOn _) hpin h htime]
    rfl
  rw [State.run_succ, sample]
  rfl

/-- `j` samples that read low, each with the sleep behind it, all before the timeout. -/
theorem State.run_polls {j : Nat} {rest : List Micro} (hpin : u.cfg.drdyPin = some pin)
    (hlow : u.env.lowFor pin u.cfg.pollInterval j = some e)
    (htime : ∀ i < j, u.elapsed + i * u.cfg.pollInterval < t) :
    State.run (2 * j) (u.goOn { r with todo := .poll t :: rest }) =
      ((u.withEnv e).setElapsed (u.elapsed + j * u.cfg.pollInterval)).goOn { r with todo := .poll t :: rest } := by
  induction j generalizing u with
  | zero =>
    cases hlow
    simp only [Nat.zero_mul]
    rfl
  | succ j ih =>
    obtain ⟨e₁, hsample, hlow⟩ := Env.lowFor_succ_iff.mp hlow
    have first := State.run_poll_of_low (r := r) (rest := rest) hpin hsample (by simpa using htime 0 j.succ_pos)
    have others := ih (hlow := hlow) hpin
      (u := (u.withEnv (e₁.sleep u.cfg.pollInterval)).setElapsed (u.elapsed + u.cfg.pollInterval)) fun i hi => by
        exact (add_interval ..).trans_lt (htime (i + 1) (Nat.succ_lt_succ hi))
    rw [show 2 * (j + 1) = 2 + 2 * j by ring, State.run_trans first others]
    simp only [State.setElapsed_elapsed, State.setElapsed_cfg, State.withEnv_cfg, add_interval]
    rfl

end

/-! ### The four ends of a wait (R190, R191) -/

/-- The first `j` samples of a wait of `t` ticks in `s`, with a pin, read low, `j` being at most the number of intervals of
the timeout; with their sleeps they lead to the environment `e`. -/
structure State.SamplesLow (s : State) (t : Ticks) (pin : Pin) (j : Nat) (e : Env) : Prop where
  drdyPin : s.cfg.drdyPin = some pin
  interval : 0 < s.cfg.pollInterval
  bound : j ≤ (t + s.cfg.pollInterval - 1) / s.cfg.pollInterval
  low : s.env.lowFor pin s.cfg.pollInterval j = some e

section
variable {u : State} {t : Ticks}

theorem State.run_wait_of_none (hpin : u.cfg.drdyPin = none) (r : Running) (rest : List Micro) :
    State.run 1 (u.goOn { r with todo := .waitBegin t :: rest }) =
      ((u.setElapsed 0).withEnv (u.env.sleep t)).setWarn.goOn { r with todo := rest } := by
  rw [State.run_succ, State.run_zero, State.tick_cons rfl rfl, Micro.run_waitBegin_of_none (u := u.goOn _) hpin]
  rfl

variable {pin : Pin} {j : Nat} {e e' : Env}

theorem State.SamplesLow.run (h : u.SamplesLow t pin j e) (r : Running) (rest : List Micro) :
    State.run (2 * j + 1) (u.goOn { r with todo := .waitBegin t :: rest }) =
      ((u.withEnv e).setElapsed (j * u.cfg.pollInterval)).goOn { r with todo := .poll t :: rest } := by
  have start : State.run 1 (u.goOn { r with todo := .waitBegin t :: rest }) =
      (u.setElapsed 0).goOn { r with todo := .poll t :: rest } := by
    rw [State.run_succ, State.run_zero, State.tick_cons rfl rfl, Micro.run_waitBegin_of_pin (u := u.goOn _) h.drdyPin]
    rfl
  have polls := State.run_polls (u := u.setElapsed 0) (r := r) (rest := rest) h.drdyPin h.low fun i hi => by
    rw [State.setElapsed_elapsed, Nat.zero_add]
    exact mul_lt_of_lt_intervals h.interval (hi.trans_le h.bound)
  rw [Nat.add_comm, State.run_trans start polls, State.setElapsed_elapsed, Nat.zero_add]
  rfl

/-- The next sample reads high: the wait ends ready. -/
theorem State.SamplesLow.run_high (h : u.SamplesLow t pin j e) (hsample : e.digitalRead pin = (e', .level true))
    (r : Running) (rest : List Micro) :
    State.run (2 * j + 2) (u.goOn { r with todo := .waitBegin t :: rest }) =
      ((u.withEnv e').setElapsed (j * u.cfg.pollInterval)).goOn { r with todo := rest } := by
  refine State.run_trans (j := 1) (h.run r rest) ?_
  rw [State.run_succ, State.run_zero, State.tick_cons rfl rfl]
  exact Micro.run_poll_of_high (u := ((u.withEnv e).setElapsed _).goOn _) h.drdyPin hsample

/-- The next sample fails (R235). -/
theorem State.SamplesLow.run_fail {i : Nat} (h : u.SamplesLow t pin j e)
    (hsample : e.digitalRead pin = (e', .fail i)) (r : Running) (rest : List Micro) :
    State.run (2 * j + 2) (u.goOn { r with todo := .waitBegin t :: rest }) =
      ((u.withEnv e').setElapsed (j * u.cfg.pollInterval)).raise .transportError (.transport i) := by
  refine State.run_trans (j := 1) (h.run r rest) ?_
  rw [State.run_succ, State.run_zero, State.tick_cons rfl rfl]
  exact Micro.run_poll_of_fail (u := ((u.withEnv e).setElapsed _).goOn _) h.drdyPin hsample

/-- The sample behind the last interval of the timeout reads low too (R236). -/
theorem State.SamplesLow.run_late (h : u.SamplesLow t pin j e)
    (hj : j = (t + u.cfg.pollInterval - 1) / u.cfg.pollInterval) (hsample : e.digitalRead pin = (e', .level false))
    (r : Running) (rest : List Micro) :
    State.run (2 * j + 2) (u.goOn { r with todo := .waitBegin t :: rest }) =
      ((u.withEnv e').setElapsed (j * u.cfg.pollInterval)).raise .readyTimeout .none := by
  have late : t ≤ j * u.cfg.pollInterval := hj ▸ le_intervals_mul h.interval
  refine State.run_trans (j := 1) (h.run r rest) ?_
  rw [State.run_succ, State.run_zero, State.tick_cons rfl rfl]
  exact Micro.run_poll_of_late (u := ((u.withEnv e).setElapsed _).goOn _) h.drdyPin hsample late

end

/-! ### An operation that waits -/

/-- `s` with an operation in progress that has waited: in the sequencer state `f`, behind the calls that lead to `e`, with
`WARN` and `ELAPSED` as given. -/
def State.waited (s : State) (f : Fsm) (e : Env) (w : Bool) (el : Ticks) : State :=
  { s with fsm := f, env := e, warn := w, elapsed := el }

theorem State.waited_deliver (s : State) (f : Fsm) (e : Env) (w : Bool) (el : Ticks) (r : Running) (v : Result) :
    ((s.waited f e w el).goOn r).deliver v = { s.returned e v with warn := w, elapsed := el } := by
  simp only [State.deliver, State.goOn, State.waited, State.returned]

theorem State.waited_raise (s : State) {f : Fsm} (hf : f ≠ .draining) (e : Env) (w : Bool) (el : Ticks)
    (code : ErrCode) (info : ErrInfo) :
    (s.waited f e w el).raise code info = { s.raised e code info with warn := w, elapsed := el } := by
  simp only [State.raise, State.waited, State.raised, hf, if_false]

/-- The core behind the sleep that stands for the wait without a pin (R190). -/
theorem State.waited_of_none (s : State) (e : Env) :
    (((s.begin.setFsm .waitingReady).setElapsed 0).withEnv e).setWarn = s.waited .waitingReady e true 0 := by
  simp only [State.setWarn, State.withEnv, State.setElapsed, State.setFsm, State.begin, State.waited]

/-- The core behind the samples and sleeps of a wait (R190). -/
theorem State.waited_of_pin (s : State) (e : Env) (el : Ticks) :
    ((s.begin.setFsm .waitingReady).withEnv e).setElapsed el = s.waited .waitingReady e false el := by
  simp only [State.withEnv, State.setElapsed, State.setFsm, State.begin, State.waited]

section
variable {s : State} {t : Ticks} {pin : Pin} {j : Nat} {e e' : Env} {i : Instr} {rest : List Micro} {finish : Finish}

theorem State.SamplesLow.begun (h : s.SamplesLow t pin j e) : (s.begin.setFsm .waitingReady).SamplesLow t pin j e :=
  ⟨h.drdyPin, h.interval, h.bound, h.low⟩

/-- The wait without a pin, in an operation just taken. -/
theorem State.run_waited_of_none (hpin : s.cfg.drdyPin = none) (r : Running) :
    State.run 1 ((s.begin.setFsm .waitingReady).goOn { r with todo := .waitBegin t :: rest }) =
      (s.waited .waitingReady (s.env.sleep t) true 0).goOn { r with todo := rest } := by
  rw [State.run_wait_of_none (u := s.begin.setFsm .waitingReady) hpin, State.waited_of_none]
  rfl

/-- The wait that ends ready, in an operation just taken. -/
theorem State.SamplesLow.run_waited (h : s.SamplesLow t pin j e) (hsample : e.digitalRead pin = (e', .level true))
    (r : Running) :
    State.run (2 * j + 2) ((s.begin.setFsm .waitingReady).goOn { r with todo := .waitBegin t :: rest }) =
      (s.waited .waitingReady e' false (j * s.cfg.pollInterval)).goOn { r with todo := rest } := by
  rw [h.begun.run_high hsample, State.waited_of_pin]
  rfl

/-- An operation whose wait ends at a sample that fails (R235). -/
theorem State.SamplesLow.launch_of_fail (h : s.SamplesLow t pin j e) (hfuel : 2 * j + 2 ≤ s.fuel) {m : Nat}
    (hsample : e.digitalRead pin = (e', .fail m)) :
    s.begin.launch i .waitingReady (.waitBegin t :: rest) finish =
      { s.raised e' .transportError (.transport m) with elapsed := j * s.cfg.pollInterval } := by
  have run := h.begun.run_fail hsample ⟨i, [], finish, [], [], []⟩ rest
  rw [State.launch_eq_of_run run hfuel rfl, State.waited_of_pin, State.waited_raise s (by decide)]
  rfl

/-- An operation whose wait times out (R195). -/
theorem State.SamplesLow.launch_of_late (h : s.SamplesLow t pin j e) (hfuel : 2 * j + 2 ≤ s.fuel)
    (hj : j = (t + s.cfg.pollInterval - 1) / s.cfg.pollInterval) (hsample : e.digitalRead pin = (e', .level false)) :
    s.begin.launch i .waitingReady (.waitBegin t :: rest) finish =
      { s.raised e' .readyTimeout .none with elapsed := j * s.cfg.pollInterval } := by
  have run := h.begun.run_late hj hsample ⟨i, [], finish, [], [], []⟩ rest
  rw [State.launch_eq_of_run run hfuel rfl, State.waited_of_pin, State.waited_raise s (by decide)]
  rfl

end

theorem exec_waitReady {s : State} (hidle : s.fsm = .idle) (t : Ticks) :
    exec (.waitReady t) s = .next (s.begin.launch (.waitReady t) .waitingReady [.waitBegin t] .none) := by
  rw [exec]
  exact State.accept_idle hidle _

/-- Settles O44: without a pin the sleep, with one the low samples and the last one, which reads high, fails, or reads low
when the timeout is over. -/
theorem waitReadyResult : Obligations.WaitReadyResult := by
  intro s t hidle
  simp only [exec_waitReady hidle]
  refine ⟨fun hpin hfuel => ?_, fun pin j e1 e2 hpin hinterval hj hfuel hlow => ?_⟩
  · have run := State.run_waited_of_none (t := t) (rest := []) hpin ⟨.waitReady t, [], .none, [], [], []⟩
    rw [State.launch_returns_of_run run rfl hfuel, State.complete, State.waited_deliver]
    rfl
  · have samples : s.SamplesLow t pin j e1 := ⟨hpin, hinterval, hj, hlow⟩
    refine ⟨fun hfuel' hsample => ?_, fun m hsample => ?_, fun hlast hsample => ?_⟩
    · have run := samples.run_waited (rest := []) hsample ⟨.waitReady t, [], .none, [], [], []⟩
      rw [State.launch_returns_of_run run rfl hfuel', State.complete, State.waited_deliver]
      rfl
    · rw [samples.launch_of_fail hfuel hsample]
    · rw [samples.launch_of_late hfuel hlast hsample]

end Sys2Proof.Machine
end

section
/-! SUPPORT. The three reads behind the wait (R192 to R195, R210, R212). -/

namespace Sys2Proof.Machine

/-! ### One axis (R192) -/

theorem Micro.run_axisRd_of_ok {u : State} {e : Env} {a : Axis} {p : List Byte}
    (h : u.env.regRead u.cfg.regmap (firstDataRegister u.cfg.regmap a) 3 = (e, .ok p)) (r : Running) :
    (Micro.axisRd a).run r u = (u.withEnv e).goOn { r with axes := r.axes ++ [decodePayload (payloadOf p)] } := by
  rw [Micro.run]
  exact State.busRead_ok h

/-- Settles O45: the one read, decoded. -/
theorem readAxisResult : Obligations.ReadAxisResult := by
  intro s x a e hi mid lo hx hidle hfuel hread
  obtain ⟨ax, hax, rfl⟩ := axisOfSelector_of_mem hx
  have run := Micro.run_axisRd_of_ok hread ⟨.rdAxisRaw x, [], .axis, [], [], []⟩
    (u := (s.begin.setFsm .reading).goOn ⟨.rdAxisRaw x, [.axisRd ax], .axis, [], [], []⟩)
  rw [exec_rdAxisRaw_of_selector hidle hax, State.launch_single_returns (s := s.begin) hfuel run rfl, State.complete,
    State.deliver_eq_returned]
  rfl

/-! ### Three axes behind the wait (R194) -/

/-- The wait of a triplet read in `s` ends, without a timeout or a failure, behind the calls that lead to `e`, with `WARN`
and `ELAPSED` as given, and there is fuel for what follows (R190). -/
def State.WaitLeads (s : State) (e : Env) (w : Bool) (el : Ticks) : Prop :=
  (s.cfg.drdyPin = none ∧ 6 ≤ s.fuel ∧ e = s.env.sleep s.cfg.readyTimeout ∧ w = true ∧ el = 0) ∨
  ∃ (pin : Pin) (j : Nat) (e₁ : Env), s.cfg.drdyPin = some pin ∧ 0 < s.cfg.pollInterval ∧
    j ≤ (s.cfg.readyTimeout + s.cfg.pollInterval - 1) / s.cfg.pollInterval ∧ 2 * j + 7 ≤ s.fuel ∧
    s.env.lowFor pin s.cfg.pollInterval j = some e₁ ∧ e₁.digitalRead pin = (e, .level true) ∧
    w = false ∧ el = j * s.cfg.pollInterval

section
variable {s : State} {e e₁ e₂ e₃ : Env} {w : Bool} {el : Ticks}

/-- A triplet read up to its first data register, with fuel left for the three reads and the return. -/
theorem State.WaitLeads.run (h : s.WaitLeads e w el) : ∃ k, k + 4 ≤ s.fuel ∧ ∀ i finish,
    State.run k ((s.begin.setFsm .waitingReady).goOn ⟨i, tripletSequence s.cfg.readyTimeout, finish, [], [], []⟩) =
      (s.waited .reading e w el).goOn ⟨i, [.axisRd .x, .axisRd .y, .axisRd .z], finish, [], [], []⟩ := by
  rcases h with ⟨hpin, hfuel, rfl, rfl, rfl⟩ | ⟨pin, j, e₁, hpin, hinterval, hj, hfuel, hlow, hsample, rfl, rfl⟩
  · exact ⟨2, hfuel, fun i finish =>
      State.run_trans (j := 1) (State.run_waited_of_none hpin ⟨i, [], finish, [], [], []⟩) rfl⟩
  · have samples : s.SamplesLow s.cfg.readyTimeout pin j e₁ := ⟨hpin, hinterval, hj, hlow⟩
    exact ⟨2 * j + 3, hfuel, fun i finish =>
      State.run_trans (j := 1) (samples.run_waited hsample ⟨i, [], finish, [], [], []⟩) rfl⟩

variable {a : Axis} {r : Running} {rest : List Micro}

/-- One axis behind the wait. -/
theorem State.run_axisRd_of_ok {p : List Byte} (hr : r.todo = .axisRd a :: rest)
    (h : e.regRead s.cfg.regmap (firstDataRegister s.cfg.regmap a) 3 = (e₁, .ok p)) :
    State.run 1 ((s.waited .reading e w el).goOn r) =
      (s.waited .reading e₁ w el).goOn { r with todo := rest, axes := r.axes ++ [decodePayload (payloadOf p)] } := by
  rw [State.run_succ, State.run_zero, State.tick_cons rfl hr]
  exact Micro.run_axisRd_of_ok (u := (s.waited .reading e w el).goOn _) h _

/-- One axis behind the wait, that ends the operation. -/
theorem State.run_axisRd_of_error {x : Raise} (hr : r.todo = .axisRd a :: rest)
    (h : e.regRead s.cfg.regmap (firstDataRegister s.cfg.regmap a) 3 = (e₁, .error x)) :
    State.run 1 ((s.waited .reading e w el).goOn r) = { s.raised e₁ x.1 x.2 with warn := w, elapsed := el } := by
  have fails := Micro.axisRd_fails (s := s.waited .reading e w el) h
  rw [State.run_succ, State.run_zero, State.tick_cons rfl hr, fails _ ((s.waited .reading e w el).goOn _) rfl rfl]
  exact State.waited_raise s (f := .reading) (by decide) ..

variable {px py pz : List Byte}

/-- The three reads of a triplet read that is not ended by its wait, and its return. -/
theorem State.WaitLeads.launch_returns (h : s.WaitLeads e w el)
    (hx : e.regRead s.cfg.regmap s.cfg.regmap.xdata3 3 = (e₁, .ok px))
    (hy : e₁.regRead s.cfg.regmap s.cfg.regmap.ydata3 3 = (e₂, .ok py))
    (hz : e₂.regRead s.cfg.regmap s.cfg.regmap.zdata3 3 = (e₃, .ok pz)) (i : Instr) (finish : Finish) :
    let axes := [decodePayload (payloadOf px), decodePayload (payloadOf py), decodePayload (payloadOf pz)]
    s.begin.launch i .waitingReady (tripletSequence s.cfg.readyTimeout) finish =
      { s.returned e₃ (finish.result ⟨i, [], finish, [], axes, []⟩ s.acc s.cfg.numerics s.freeSeq) with
        warn := w, elapsed := el } := by
  obtain ⟨k, hfuel, run⟩ := h.run
  have x := State.run_trans (run i finish) (State.run_axisRd_of_ok (a := .x) rfl hx)
  have y := State.run_trans x (State.run_axisRd_of_ok (a := .y) rfl hy)
  have z := State.run_trans y (State.run_axisRd_of_ok (a := .z) rfl hz)
  rw [State.launch_returns_of_run z rfl hfuel, State.complete, State.waited_deliver]
  rfl

end

/-- Settles O46: the launch that the three operations share, each with its result of the three values. -/
theorem tripletReadsResult : Obligations.TripletReadsResult := by
  intro s e0 e1 e2 e3 x2 x1 x0 y2 y1 y0 z2 z1 z0 w el hidle hwait hx hy hz x y z
  have launch := State.WaitLeads.launch_returns hwait hx hy hz
  refine ⟨?_, ?_, fun f hscale => ?_⟩
  · rw [exec_rdAxisTriplet hidle, launch]
    rfl
  · rw [exec_rdTripletRaw hidle, launch]
    rfl
  · rw [exec_rdTripletG_of_scale hidle hscale, launch]
    rfl

/-- The three triplet reads are launched alike but for what they return (R210, R212). -/
theorem exec_triplet {i : Instr} {s : State} (hidle : s.fsm = .idle)
    (hi : i = .rdAxisTriplet ∨ i = .rdTripletRaw ∨ (i = .rdTripletG ∧ s.scale ≠ none)) : ∃ finish,
    exec i s = .next (s.begin.launch i .waitingReady (tripletSequence s.cfg.readyTimeout) finish) := by
  rcases hi with rfl | rfl | ⟨rfl, hscale⟩
  · exact ⟨_, exec_rdAxisTriplet hidle⟩
  · exact ⟨_, exec_rdTripletRaw hidle⟩
  · obtain ⟨scale, hscale⟩ := Option.ne_none_iff_exists'.mp hscale
    exact ⟨_, exec_rdTripletG_of_scale hidle hscale⟩

/-- Settles O47: the wait that times out, which is the first position of a triplet read. -/
theorem timeoutEndsTripletReads : Obligations.TimeoutEndsTripletReads := by
  intro i s pin j e1 e2 hi hidle hpin hinterval hj hfuel hlow hsample
  have samples : s.SamplesLow s.cfg.readyTimeout pin j e1 := ⟨hpin, hinterval, hj.le, hlow⟩
  obtain ⟨finish, hexec⟩ := exec_triplet hidle hi
  rw [hexec, tripletSequence, samples.launch_of_late hfuel hj hsample]

/-- Settles O48: the sample that fails, and behind the wait the first read that fails. -/
theorem failureEndsTripletReads : Obligations.FailureEndsTripletReads := by
  intro i s hi hidle
  obtain ⟨finish, hexec⟩ := exec_triplet hidle hi
  rw [hexec]
  refine ⟨fun pin j e1 e2 m hpin hinterval hj hfuel hlow hsample => ?_, fun e0 e1 e2 e3 px py x w el hwait => ?_⟩
  · have samples : s.SamplesLow s.cfg.readyTimeout pin j e1 := ⟨hpin, hinterval, hj, hlow⟩
    rw [tripletSequence, samples.launch_of_fail hfuel hsample]
  · obtain ⟨k, hfuel, run⟩ := State.WaitLeads.run hwait
    have run := run i finish
    refine ⟨fun hx => ?_, fun hx hy => ?_, fun hx hy hz => ?_⟩
    · have x := State.run_trans run (State.run_axisRd_of_error (a := .x) rfl hx)
      rw [State.launch_eq_of_run x (Nat.le_of_add_right_le (k := 3) hfuel) rfl]
    · have x := State.run_trans run (State.run_axisRd_of_ok (a := .x) rfl hx)
      have y := State.run_trans x (State.run_axisRd_of_error (a := .y) rfl hy)
      rw [State.launch_eq_of_run y (Nat.le_of_add_right_le (k := 2) hfuel) rfl]
    · have x := State.run_trans run (State.run_axisRd_of_ok (a := .x) rfl hx)
      have y := State.run_trans x (State.run_axisRd_of_ok (a := .y) rfl hy)
      have z := State.run_trans y (State.run_axisRd_of_error (a := .z) rfl hz)
      rw [State.launch_eq_of_run z (Nat.le_of_add_right_le (k := 1) hfuel) rfl]

end Sys2Proof.Machine
end

section
/-! SUPPORT. The drain of the FIFO, read by read, and what the reference device's FIFO answers to it (R84, R196 to R199). -/

namespace Sys2Proof.Machine

/-! ### What a drain reads (R196 to R198) -/

/-- The three bytes of a payload in wire order (R68). -/
def bytesOf (p : Payload) : List Byte := [p.high, p.mid, p.low]

theorem payloadOf_bytesOf (p : Payload) : payloadOf (bytesOf p) = p := rfl

theorem and_two_eq_zero_iff : ∀ b : Byte, b &&& 0x02 = 0 ↔ b.getLsbD 1 = false := by decide

/-- The marker is bit 1 of the third byte (R98, R196). -/
theorem emptyMarker_eq_false_iff (p : Payload) : emptyMarker p = false ↔ p.low &&& 0x02 = 0 :=
  (and_two_eq_zero_iff p.low).symm

theorem emptyMarker_eq_true_iff (p : Payload) : emptyMarker p = true ↔ ¬ p.low &&& 0x02 = 0 := by
  rw [← emptyMarker_eq_false_iff, Bool.not_eq_false]

/-- One FIFO read, answered with the entry `p`, leads from `e` to `e'` (R196). -/
def Env.FifoReads (m : RegMap) (e : Env) (p : Payload) (e' : Env) : Prop :=
  e.regRead m m.fifoData 3 = (e', .ok (bytesOf p))

section
variable {m : RegMap} {e e' : Env} {l : List FifoTriplet} {x : Payload}

/-- A drain that yields nothing: the marker on the first X-slot read (R198). -/
theorem Env.drain_zero_iff : Env.drain m 0 e = some (e', l, x) ↔
    e.FifoReads m x e' ∧ emptyMarker x = true ∧ l = [] := by
  rw [Env.drain]
  constructor
  · intro h
    split at h
    case h_2 => cases h
    case h_1 e₁ a b c h₁ =>
      split at h
      case isTrue => cases h
      case isFalse hc =>
        cases h
        exact ⟨h₁, (emptyMarker_eq_true_iff _).mpr hc, rfl⟩
  · rintro ⟨h₁, hc, rfl⟩
    have marked := (emptyMarker_eq_true_iff x).mp hc
    simp only [Env.FifoReads, bytesOf] at h₁
    simp only [h₁, marked, if_false]

/-- A drain that yields a triplet first: three reads, the marker clear on the X slot (R198). -/
theorem Env.drain_succ_iff {k : Nat} : Env.drain m (k + 1) e = some (e', l, x) ↔
    ∃ (e₁ e₂ e₃ : Env) (t : FifoTriplet) (l' : List FifoTriplet),
      e.FifoReads m t.px e₁ ∧ emptyMarker t.px = false ∧ e₁.FifoReads m t.py e₂ ∧ e₂.FifoReads m t.pz e₃ ∧
      Env.drain m k e₃ = some (e', l', x) ∧ l = t :: l' := by
  rw [Env.drain]
  constructor
  · intro h
    split at h
    case h_2 => cases h
    case h_1 e₁ a b c h₁ =>
      split at h
      case isFalse => cases h
      case isTrue hc =>
        split at h
        case h_2 => cases h
        case h_1 e₂ a' b' c' h₂ =>
          split at h
          case h_2 => cases h
          case h_1 e₃ a'' b'' c'' h₃ =>
            split at h
            case h_2 => cases h
            case h_1 e₄ l' x' h₄ =>
              cases h
              exact ⟨e₁, e₂, e₃, ⟨⟨a, b, c⟩, ⟨a', b', c'⟩, ⟨a'', b'', c''⟩⟩, l', h₁,
                (emptyMarker_eq_false_iff _).mpr hc, h₂, h₃, h₄, rfl⟩
  · rintro ⟨e₁, e₂, e₃, t, l', h₁, hc, h₂, h₃, h₄, rfl⟩
    have clear := (emptyMarker_eq_false_iff t.px).mp hc
    simp only [Env.FifoReads, bytesOf] at h₁ h₂ h₃
    simp only [h₁, clear, if_true, h₂, h₃, h₄]

/-- A FIFO read is one call (R74). -/
theorem Env.FifoReads.history_length (h : e.FifoReads m x e') : e'.history.length = e.history.length + 1 := by
  obtain ⟨-, -, b, transfer⟩ := Env.regRead_ok h
  have history : e'.history = _ := transfer ▸ Env.transfer_history m e (readFrame m.fifoData 3)
  rw [history, List.length_append, List.length_singleton]

/-- The triplets of a drain are as many as it yields, each with the marker clear on its X payload, and the calls are three a
triplet and one more (R198, R199 (a)). -/
theorem Env.drain_length {k : Nat} (h : Env.drain m k e = some (e', l, x)) :
    l.length = k ∧ (∀ t ∈ l, t.px.low.getLsbD 1 = false) ∧
      e'.history.length = e.history.length + (3 * k + 1) := by
  induction k generalizing e l with
  | zero =>
    obtain ⟨read, -, rfl⟩ := Env.drain_zero_iff.mp h
    exact ⟨rfl, nofun, read.history_length⟩
  | succ k ih =>
    obtain ⟨e₁, e₂, e₃, t, l', h₁, hc, h₂, h₃, h₄, rfl⟩ := Env.drain_succ_iff.mp h
    obtain ⟨length, clear, history⟩ := ih h₄
    refine ⟨congrArg _ length, List.forall_mem_cons.mpr ⟨hc, clear⟩, ?_⟩
    rw [history, h₃.history_length, h₂.history_length, h₁.history_length]
    omega

end

/-! ### The positions of the drain loop (R198) -/

section
variable {u : State} {e e' : Env} {p x : Payload} {r : Running} {rest : List Micro}

/-- A FIFO read in the slot `a` (R27). -/
theorem State.busRead_fifo {a : Axis} {k : List Byte → State → State} (h : u.env.FifoReads u.cfg.regmap p e) :
    ((u.goOn r).setSlot a).busRead (u.goOn r).cfg.regmap.fifoData 3 k =
      k (bytesOf p) (((u.goOn r).setSlot a).withEnv e) :=
  State.busRead_ok (s := (u.goOn r).setSlot a) h

/-- The X-slot read without the marker. -/
theorem State.tick_fifoX_of_clear (hr : r.todo = .fifoX :: rest) (h : u.env.FifoReads u.cfg.regmap p e)
    (hp : emptyMarker p = false) : (u.goOn r).tick =
      (((u.setSlot .x).withEnv e).setXl p).goOn { r with todo := .fifoY :: .fifoZ :: .fifoX :: rest } := by
  rw [State.tick_cons rfl hr, Micro.run, State.busRead_fifo h]
  simp only [payloadOf_bytesOf, hp]
  rfl

/-- The X-slot read with the marker: the drain ends. -/
theorem State.tick_fifoX_of_marked (hr : r.todo = .fifoX :: rest) (h : u.env.FifoReads u.cfg.regmap p e)
    (hp : emptyMarker p = true) :
    (u.goOn r).tick = (((u.setSlot .x).withEnv e).setXl p).goOn { r with todo := rest } := by
  rw [State.tick_cons rfl hr, Micro.run, State.busRead_fifo h]
  simp only [payloadOf_bytesOf, hp]
  rfl

theorem State.tick_fifoY (hr : r.todo = .fifoY :: rest) (h : u.env.FifoReads u.cfg.regmap p e) :
    (u.goOn r).tick = (((u.setSlot .y).withEnv e).setYl p).goOn { r with todo := rest } := by
  rw [State.tick_cons rfl hr, Micro.run, State.busRead_fifo h]
  rfl

theorem State.tick_fifoZ (hr : r.todo = .fifoZ :: rest) (h : u.env.FifoReads u.cfg.regmap p e) :
    (u.goOn r).tick =
      ((u.setSlot .z).withEnv e).goOn { r with todo := rest, out := r.out ++ [⟨u.xl, u.yl, p⟩] } := by
  rw [State.tick_cons rfl hr, Micro.run, State.busRead_fifo h]
  rfl

/-! ### A drain (R198) -/

/-- `u` behind the Z-slot read of the triplet `t`, which led to the environment `e`. -/
def State.latched (u : State) (e : Env) (t : FifoTriplet) : State :=
  { u with env := e, slot := .z, xl := t.px, yl := t.py }

/-- `u` behind drains that led to the environment `e`, yielded `l` and ended with the X payload `x`. -/
def State.drained (u : State) (e : Env) (l : List FifoTriplet) (x : Payload) : State :=
  { u with env := e, slot := .x, xl := x, yl := lastY u.yl l }

theorem lastY_append (y : Payload) (l l' : List FifoTriplet) : lastY y (l ++ l') = lastY (lastY y l) l' := by
  rcases List.eq_nil_or_concat l' with rfl | ⟨l', t, rfl⟩
  · simp [lastY]
  · simp [lastY]

theorem State.drained_drained (u : State) (e e' : Env) (l l' : List FifoTriplet) (x x' : Payload) :
    (u.drained e l x).drained e' l' x' = u.drained e' (l ++ l') x' := by
  simp only [State.drained, lastY_append]

theorem State.latched_drained (u : State) (e e' : Env) (t : FifoTriplet) (l : List FifoTriplet) (x : Payload) :
    (u.latched e t).drained e' l x = u.drained e' (t :: l) x := by
  simp only [State.drained, State.latched, ← List.singleton_append (l := l), lastY_append]
  rfl

/-- The three reads that bring a triplet. -/
theorem State.run_triplet {e₁ e₂ : Env} {t : FifoTriplet} (hr : r.todo = .fifoX :: rest)
    (hx : u.env.FifoReads u.cfg.regmap t.px e₁) (hc : emptyMarker t.px = false)
    (hy : e₁.FifoReads u.cfg.regmap t.py e₂) (hz : e₂.FifoReads u.cfg.regmap t.pz e) :
    State.run 3 (u.goOn r) = (u.latched e t).goOn { r with todo := .fifoX :: rest, out := r.out ++ [t] } := by
  rw [State.run_succ, State.tick_fifoX_of_clear hr hx hc, State.run_succ,
    State.tick_fifoY (u := ((u.setSlot .x).withEnv e₁).setXl t.px) rfl hy, State.run_succ,
    State.tick_fifoZ (u := (((((u.setSlot .x).withEnv e₁).setXl t.px).setSlot .y).withEnv e₂).setYl t.py) rfl hz,
    State.run_zero]
  simp only [State.goOn, State.latched, State.withEnv, State.setSlot, State.setXl, State.setYl]

/-- A drain of `k` triplets: three reads for each, and the read that finds the marker. -/
theorem State.run_drain {k : Nat} {l : List FifoTriplet} (hr : r.todo = .fifoX :: rest)
    (h : Env.drain u.cfg.regmap k u.env = some (e, l, x)) :
    State.run (3 * k + 1) (u.goOn r) = (u.drained e l x).goOn { r with todo := rest, out := r.out ++ l } := by
  induction k generalizing u r l with
  | zero =>
    obtain ⟨read, marked, rfl⟩ := Env.drain_zero_iff.mp h
    rw [State.run_succ, State.tick_fifoX_of_marked hr read marked]
    simp only [State.goOn, State.drained, State.withEnv, State.setSlot, State.setXl, List.append_nil]
    rfl
  | succ k ih =>
    obtain ⟨e₁, e₂, e₃, t, l', hx, hc, hy, hz, hdrain, rfl⟩ := Env.drain_succ_iff.mp h
    have triplet := State.run_triplet hr hx hc hy hz
    have others := ih (u := u.latched e₃ t) (r := { r with todo := .fifoX :: rest, out := r.out ++ [t] }) rfl hdrain
    rw [show 3 * (k + 1) + 1 = 3 + (3 * k + 1) by ring, State.run_trans triplet others, State.latched_drained,
      List.append_assoc, List.singleton_append]

end

theorem State.drained_deliver (s : State) (e : Env) (l : List FifoTriplet) (x : Payload) (r : Running) (v : Result) :
    (((s.begin.setFsm .draining).drained e l x).goOn r).deliver v =
      { s.returned e v with slot := .x, xl := x, yl := lastY s.yl l } := by
  simp only [State.deliver, State.goOn, State.drained, State.setFsm, State.begin, State.returned]

/-- Settles O49: the drain, then its return; the shape of the list is that of `Env.drain`. -/
theorem drainResult : Obligations.DrainResult := by
  intro s k e l x hidle hfuel hdrain
  refine ⟨?_, Env.drain_length hdrain⟩
  have run := State.run_drain (u := s.begin.setFsm .draining) (r := ⟨.drainFifo, [.fifoX], .drained, [], [], []⟩) rfl
    hdrain
  rw [exec_drainFifo hidle, State.launch_returns_of_run run rfl hfuel, State.complete, State.drained_deliver]
  rfl

/-! ### The reference device (R84) -/

section
variable {m : RegMap} {e : Env} {d : RefDevice}

/-- `d` with other entries in its FIFO, and `n` more FIFO reads in its log (R84). -/
def RefDevice.afterReads (m : RegMap) (d : RefDevice) (fifo : List Payload) (n : Nat) : RefDevice :=
  { d with fifo := fifo, log := d.log ++ List.replicate n (readFrame m.fifoData 3) }

/-- A FIFO read of a device with entries takes the first (R84). -/
theorem Env.AnswersBy.fifoReads_cons (h : e.AnswersBy d) {p : Payload} {rest : List Payload} (hd : d.fifo = p :: rest) :
    ∃ e', e.FifoReads m p e' ∧ e'.AnswersBy (d.afterReads m rest 1) := by
  obtain ⟨e', transfer, h'⟩ := h.transfer (m := m)
    ((RefDevice.receive_fifoFrame m d).trans (congrArg some (RefDevice.popFifo_cons hd)))
  exact ⟨e', Env.regRead_of_respond (by decide) transfer rfl, h'⟩

/-- A FIFO read of a device without entries brings the marker (R84). -/
theorem Env.AnswersBy.fifoReads_nil (h : e.AnswersBy d) (hd : d.fifo = []) :
    ∃ e', e.FifoReads m ⟨0x00, 0x00, 0x02⟩ e' ∧ e'.AnswersBy (d.afterReads m [] 1) := by
  obtain ⟨e', transfer, h'⟩ := h.transfer (m := m)
    ((RefDevice.receive_fifoFrame m d).trans (congrArg some (RefDevice.popFifo_nil hd)))
  refine ⟨e', Env.regRead_of_respond (by decide) transfer rfl, ?_⟩
  rw [RefDevice.afterReads, ← hd]
  exact h'

theorem RefDevice.afterReads_afterReads (l l' : List Payload) (i j : Nat) :
    (d.afterReads m l i).afterReads m l' j = d.afterReads m l' (i + j) := by
  simp only [RefDevice.afterReads, List.append_assoc, List.replicate_append_replicate]

/-- A FIFO of whole triplets with clear markers on the X slots is drained of them all (R198). -/
theorem Env.AnswersBy.drain {l : List FifoTriplet} (h : e.AnswersBy d)
    (hd : d.fifo = l.flatMap fun t => [t.px, t.py, t.pz]) (hclear : ∀ t ∈ l, emptyMarker t.px = false) :
    ∃ e' x, Env.drain m l.length e = some (e', l, x) ∧ e'.AnswersBy (d.afterReads m [] (3 * l.length + 1)) := by
  induction l generalizing e d with
  | nil =>
    obtain ⟨e', read, h'⟩ := h.fifoReads_nil hd
    exact ⟨e', _, Env.drain_zero_iff.mpr ⟨read, rfl, rfl⟩, h'⟩
  | cons t l ih =>
    obtain ⟨hc, hclear⟩ := List.forall_mem_cons.mp hclear
    obtain ⟨e₁, hx, h₁⟩ := h.fifoReads_cons (m := m) hd
    obtain ⟨e₂, hy, h₂⟩ := h₁.fifoReads_cons (m := m) rfl
    obtain ⟨e₃, hz, h₃⟩ := h₂.fifoReads_cons (m := m) rfl
    obtain ⟨e', x, hdrain, h'⟩ := ih h₃ rfl hclear
    refine ⟨e', x, Env.drain_succ_iff.mpr ⟨e₁, e₂, e₃, t, l, hx, hc, hy, hz, hdrain, rfl⟩, ?_⟩
    simp only [RefDevice.afterReads_afterReads] at h'
    rwa [show 3 * (t :: l).length + 1 = 1 + 1 + 1 + (3 * l.length + 1) by rw [List.length_cons]; ring]

end

/-- Settles O50: the drain that the FIFO answers, returned as O49 says. -/
theorem drainEmptiesTheReferenceFifo : Obligations.DrainEmptiesTheReferenceFifo := by
  intro s d l hidle hfuel hdevice hcues hfifo hclear
  have answers : s.env.AnswersBy d := ⟨hdevice, hcues⟩
  obtain ⟨e, x, hdrain, hdevice', -⟩ := answers.drain (m := s.cfg.regmap) hfifo hclear
  obtain ⟨hexec, -⟩ := drainResult s l.length e l x hidle hfuel hdrain
  exact ⟨_, _, hexec, rfl, rfl, rfl, rfl, hdevice', rfl, rfl, rfl, rfl⟩

end Sys2Proof.Machine
end

section
/-! SUPPORT. The bursts as drains that follow one another (R200, R213, R214, R278). -/

namespace Sys2Proof.Machine

/-! ### The drains of a burst -/

section
variable {m : RegMap} {e e' : Env} {l : List FifoTriplet} {x y : Payload} {k : Nat} {ks : List Nat}

theorem Env.drains_cons_iff : Env.drains m (k :: ks) y e = some (e', l, x) ↔
    ∃ (e₁ : Env) (l₁ l₂ : List FifoTriplet) (x₁ : Payload), Env.drain m k e = some (e₁, l₁, x₁) ∧
      Env.drains m ks x₁ e₁ = some (e', l₂, x) ∧ l = l₁ ++ l₂ := by
  rw [Env.drains]
  constructor
  · intro h
    split at h
    case h_2 => cases h
    case h_1 e₁ l₁ x₁ h₁ =>
      split at h
      case h_2 => cases h
      case h_1 e₂ l₂ x₂ h₂ =>
        cases h
        exact ⟨e₁, l₁, l₂, x₁, h₁, h₂, rfl⟩
  · rintro ⟨e₁, l₁, l₂, x₁, h₁, h₂, rfl⟩
    simp only [h₁, h₂]

theorem Env.drains_length (h : Env.drains m ks y e = some (e', l, x)) : l.length = ks.sum := by
  induction ks generalizing e l y with
  | nil =>
    cases h
    rfl
  | cons k ks ih =>
    obtain ⟨e₁, l₁, l₂, x₁, h₁, h₂, rfl⟩ := Env.drains_cons_iff.mp h
    obtain ⟨length, -⟩ := Env.drain_length h₁
    rw [List.length_append, length, ih h₂, List.sum_cons]

end

/-! ### The loop of a burst (R200) -/

section
variable {u : State} {e : Env} {l : List FifoTriplet} {x y : Payload} {r : Running} {rest : List Micro} {n k : Nat}
  {ks : List Nat}

/-- `u` behind drains as in `State.drained`, whose triplets have been put behind those in `ACC`. -/
def State.acquired (u : State) (e : Env) (l : List FifoTriplet) (x : Payload) : State :=
  (u.drained e l x).setAcc (u.acc ++ l)

theorem State.acquired_acquired (u : State) (e e' : Env) (l l' : List FifoTriplet) (x x' : Payload) :
    (u.acquired e l x).acquired e' l' x' = u.acquired e' (l ++ l') x' := by
  simp only [State.acquired, State.drained, State.setAcc, lastY_append, List.append_assoc]

/-- The test of the loop of a burst that has come to its end (R200). -/
theorem Micro.run_acqTest_of_le (h : n ≤ u.acc.length) : (Micro.acqTest n).run r u = u.goOn r :=
  if_neg (Nat.not_lt.mpr h)

/-- The test of the loop, a drain, and its triplets put into `ACC`. -/
theorem State.run_acquisition (hr : r.todo = .acqTest n :: rest) (hout : r.out = []) (hacc : u.acc.length < n)
    (h : Env.drain u.cfg.regmap k u.env = some (e, l, x)) :
    State.run (3 * k + 3) (u.goOn r) = (u.acquired e l x).goOn { r with todo := .acqTest n :: rest, out := [] } := by
  have test : State.run 1 (u.goOn r) = u.goOn { r with todo := .fifoX :: .accumulate :: .acqTest n :: rest } := by
    rw [State.run_succ, State.run_zero, State.tick_cons rfl hr, Micro.run_acqTest_of_lt (u := u.goOn r) hacc]
    rfl
  have drain := State.run_drain (r := { r with todo := .fifoX :: .accumulate :: .acqTest n :: rest }) rfl h
  rw [show 3 * k + 3 = 1 + (3 * k + 1) + 1 by ring, State.run_split, State.run_trans test drain, State.run_succ,
    State.run_zero, State.tick_cons rfl rfl, hout]
  rfl

/-- Drains that follow one another, the loop going on before each of them. -/
theorem State.run_acquisitions (hr : r.todo = .acqTest n :: rest) (hout : r.out = [])
    (hacc : u.acc.length + (k :: ks).dropLast.sum < n)
    (h : Env.drains u.cfg.regmap (k :: ks) y u.env = some (e, l, x)) :
    State.run ((k :: ks).map fun k => 3 * k + 3).sum (u.goOn r) =
      (u.acquired e l x).goOn { r with todo := .acqTest n :: rest, out := [] } := by
  induction ks generalizing u r l k y with
  | nil =>
    obtain ⟨e₁, l₁, l₂, x₁, h₁, h₂, rfl⟩ := Env.drains_cons_iff.mp h
    cases h₂
    rw [List.append_nil]
    exact State.run_acquisition hr hout hacc h₁
  | cons k' ks ih =>
    obtain ⟨e₁, l₁, l₂, x₁, h₁, h₂, rfl⟩ := Env.drains_cons_iff.mp h
    obtain ⟨length, -⟩ := Env.drain_length h₁
    rw [List.dropLast_cons_cons, List.sum_cons] at hacc
    have first := State.run_acquisition hr hout (by omega) h₁
    have others := ih (u := u.acquired e₁ l₁ x₁) (r := { r with todo := .acqTest n :: rest, out := [] }) rfl rfl
      (by simp only [State.acquired, State.setAcc_acc, List.length_append]; omega) h₂
    rw [List.map_cons, List.sum_cons, State.run_trans first others, State.acquired_acquired]

end

/-! ### A burst -/

theorem State.acquired_deliver (s : State) (e : Env) (l : List FifoTriplet) (x : Payload) (r : Running) (v : Result) :
    ((((s.begin.setAcc []).setFsm .draining).acquired e l x).goOn r).deliver v =
      { s.returned e v with acc := l, slot := .x, xl := x, yl := lastY s.yl l } := by
  simp only [State.deliver, State.goOn, State.acquired, State.drained, State.setAcc, State.setFsm, State.begin,
    State.returned, List.nil_append]

/-- A burst whose drains reach `n` triplets with the last of them (R200, R278). -/
theorem State.acquire_of_drains {s : State} {n : Nat} {ks : List Nat} {e : Env} {l : List FifoTriplet} {x y : Payload}
    (hn : 0 < n) (hle : n ≤ ks.sum) (hlt : ks.dropLast.sum < n) (hfuel : (ks.map fun k => 3 * k + 3).sum + 2 ≤ s.fuel)
    (h : Env.drains s.cfg.regmap ks y s.env = some (e, l, x)) (i : Instr) (finish : Finish) :
    s.begin.acquire i n finish =
      { s.returned e (finish.result ⟨i, [], finish, [], [], []⟩ l s.cfg.numerics s.freeSeq) with
        acc := l, slot := .x, xl := x, yl := lastY s.yl l } := by
  cases ks with
  | nil => exact absurd (hn.trans_le hle) (lt_irrefl 0)
  | cons k ks =>
    have loop := State.run_acquisitions (u := (s.begin.setAcc []).setFsm .draining)
      (r := ⟨i, [.acqTest n], finish, [], [], []⟩) rfl rfl ((Nat.zero_add _).trans_lt hlt) h
    have acc : n ≤ (((s.begin.setAcc []).setFsm .draining).acquired e l x).acc.length :=
      (Env.drains_length h).symm ▸ hle
    have last : State.run 1 ((((s.begin.setAcc []).setFsm .draining).acquired e l x).goOn
        ⟨i, [.acqTest n], finish, [], [], []⟩) =
          (((s.begin.setAcc []).setFsm .draining).acquired e l x).goOn ⟨i, [], finish, [], [], []⟩ := by
      rw [State.run_succ, State.run_zero, State.tick_cons rfl rfl]
      exact Micro.run_acqTest_of_le (u := State.goOn _ _) acc
    rw [State.acquire_pos _ i hn.ne', State.launch_returns_of_run (State.run_trans loop last) rfl hfuel,
      State.complete, State.acquired_deliver]
    rfl

/-- Settles O51: the burst that the three operations share, each with its result of the triplets. -/
theorem acquireResult : Obligations.AcquireResult := by
  intro s n ks e l x hidle hn hle hlt hfuel h
  have acquire := State.acquire_of_drains hn hle hlt hfuel h
  refine ⟨Env.drains_length h, ?_, ?_, fun f hscale => ?_⟩
  · rw [exec_acqN hidle, acquire]
    rfl
  · rw [exec_rdBurstRaw hidle, acquire]
    rfl
  · rw [exec_rdBurstG_of_scale hidle hscale, acquire]
    rfl

/-- Settles O52: a burst of no sample returns where it is taken. -/
theorem acquireZero : Obligations.AcquireZero := by
  intro s hidle
  refine ⟨?_, ?_, fun f hscale => ?_⟩
  · rw [exec_acqN hidle]
    rfl
  · rw [exec_rdBurstRaw hidle]
    rfl
  · rw [exec_rdBurstG_of_scale hidle hscale]
    rfl

end Sys2Proof.Machine
end

section
/-! SUPPORT. The controller operations (R211, R216, R218): the scaled reads without a scale, and the operations that read
one register byte after another. -/

namespace Sys2Proof.Machine

/-! ### The scaled reads without a scale (R211) -/

section
variable {s : State}

theorem exec_rdTripletG_of_scale_none (hidle : s.fsm = .idle) (hscale : s.scale = none) :
    exec .rdTripletG s = .next (s.raised s.env .scaleUndefined .none) := by
  rw [exec]
  refine State.accept_eq_next hidle ?_
  simp [hscale, State.begin_raise hidle]

theorem exec_rdBurstG_of_scale_none (hidle : s.fsm = .idle) (hscale : s.scale = none) (n : Nat) :
    exec (.rdBurstG n) s = .next (s.raised s.env .scaleUndefined .none) := by
  rw [exec]
  refine State.accept_eq_next hidle ?_
  simp [hscale, State.begin_raise hidle]

end

/-- Settles O54: both scaled reads raise before anything else they do. -/
theorem scaleUndefinedComesFirst : Obligations.ScaleUndefinedComesFirst :=
  ⟨rfl, fun _ hidle hscale =>
    ⟨exec_rdTripletG_of_scale_none hidle hscale, exec_rdBurstG_of_scale_none hidle hscale⟩⟩

/-! ### One-byte reads in a row -/

/-- The one-byte reads at the named registers, in the order of the list, are answered with the bytes beside the names and
lead from the first environment to the second. -/
def Env.ReadsBytes (m : RegMap) : List (RegName × Byte) → Env → Env → Prop
  | [], e, e' => e = e'
  | (name, b) :: l, e, e' => ∃ e₁, e.regRead m (m.addr name) 1 = (e₁, .ok [b]) ∧ Env.ReadsBytes m l e₁ e'

/-- The positions that make such reads. -/
def byteReads (l : List (RegName × Byte)) : List Micro := l.map fun x => .byteRd x.1

/-- One of the reads: its byte stands behind those read before it. -/
theorem State.tick_byteRd_of_ok {u : State} {e : Env} {name : RegName} {b : Byte} {r : Running} {rest : List Micro}
    (hr : r.todo = .byteRd name :: rest)
    (h : u.env.regRead u.cfg.regmap (u.cfg.regmap.addr name) 1 = (e, .ok [b])) :
    (u.goOn r).tick = (u.withEnv e).goOn { r with todo := rest, bytes := r.bytes ++ [b] } := by
  rw [State.tick_cons rfl hr, Micro.run]
  exact State.busRead_ok (s := u.goOn r) h

/-- The reads in a row collect their bytes in the order of the calls. -/
theorem State.run_byteReads {l : List (RegName × Byte)} {u : State} {e : Env} {r : Running} {rest : List Micro}
    (h : Env.ReadsBytes u.cfg.regmap l u.env e) (hr : r.todo = byteReads l ++ rest) :
    State.run l.length (u.goOn r) = (u.withEnv e).goOn { r with todo := rest, bytes := r.bytes ++ l.map Prod.snd } := by
  induction l generalizing u r with
  | nil =>
    obtain rfl : u.env = e := h
    obtain rfl : r.todo = rest := hr
    simp [State.run_zero, State.withEnv]
  | cons x l ih =>
    obtain ⟨e₁, hread, hreads⟩ := h
    rw [List.length_cons, State.run_succ, State.tick_byteRd_of_ok hr hread, ih (u := u.withEnv e₁) hreads rfl,
      List.append_assoc]
    rfl

/-- An operation that is such reads and nothing else returns behind the last of them, with its result of the bytes (R15). -/
theorem State.launch_byteReads {l : List (RegName × Byte)} {s : State} {e : Env}
    (h : Env.ReadsBytes s.cfg.regmap l s.env e) (hfuel : l.length < s.fuel) (i : Instr) (finish : Finish) :
    s.begin.launch i .sequencing (byteReads l) finish =
      s.returned e (finish.result ⟨i, [], finish, l.map Prod.snd, [], []⟩ s.acc s.cfg.numerics s.freeSeq) := by
  have run := State.run_byteReads (u := s.begin.setFsm .sequencing) (r := ⟨i, byteReads l, finish, [], [], []⟩) h
    (List.append_nil _).symm
  rw [State.launch_returns_of_run run rfl hfuel]
  exact State.deliver_eq_returned s .sequencing ⟨i, [], finish, [], [], []⟩ _ e _

/-! ### The device's status and identity (R216, R218) -/

/-- The flags of a `STATUS` byte as a number (R108). -/
theorem statusOf_eq (b : Byte) :
    statusOf b = ⟨decide (b.toNat % 2 = 1), decide (b.toNat / 2 % 2 = 1), decide (b.toNat / 4 % 2 = 1)⟩ := by
  have bit (i : Nat) : b.getLsbD i = decide (b.toNat / 2 ^ i % 2 = 1) := Nat.testBit_eq_decide_div_mod_eq
  rw [statusOf, getLsbD_zero_eq, bit 1, bit 2, Nat.pow_one]
  rfl

/-- Settles O55: the one byte read is the byte the flags are taken from. -/
theorem statusResult : Obligations.StatusResult := by
  intro s e b hidle hfuel hread
  have launch := State.launch_byteReads (l := [(.status, b)]) ⟨e, hread, rfl⟩ hfuel .status .status
  rw [exec_status hidle, ← statusOf_eq]
  exact congrArg _ launch

/-- Settles O56: the bytes collected by the three reads are the result. -/
theorem identifyResult : Obligations.IdentifyResult := by
  intro s e1 e2 e3 a m p hidle hfuel hdevid hmst hpart
  have launch := State.launch_byteReads (l := [(.devidAd, a), (.devidMst, m), (.partid, p)])
    ⟨e1, hdevid, e2, hmst, e3, hpart, rfl⟩ hfuel .identify .identify
  rw [exec_identify hidle]
  exact congrArg _ launch

end Sys2Proof.Machine
end

section
/-! SUPPORT. The command port: a code that is not in the table (R112, R232), and the port of a busy core, which no position
of an operation reads (R246). -/

namespace Sys2Proof.Machine

/-! ### An unknown operation code (R232) -/

/-- A command-port request whose code byte is none of the 24 codes of R112 is refused for its code, whatever follows. -/
theorem decodeCommand_of_code_not_mem {code : Byte}
    (h : code.toNat ∉ [0x01, 0x02, 0x03, 0x04, 0x05, 0x10, 0x11, 0x12, 0x13, 0x14, 0x20, 0x21, 0x22, 0x30, 0x31, 0x32,
      0x33, 0x34, 0x40, 0x41, 0x42, 0x43, 0x44, 0x45]) (n : Numerics) (operands : List Byte) :
    decodeCommand n (code :: operands) = .error (.unknownCode code) := by
  rw [decodeCommand]
  split
  case h_25 => rfl
  all_goals
    rename_i hcode
    rw [hcode] at h
    exact absurd (by decide) h

/-- With no reset, no operation in progress and `fsm` in `Idle`, a step refuses a request with an unknown code, and the
core is the one without that request. -/
theorem step_of_unknownCode {s : State} {r : Request} {rest : List Request} {code : Byte} (hreset : s.resetIn = false)
    (hop : s.op = none) (hfsm : s.fsm = .idle) (hport : s.port = r :: rest)
    (hdecode : decode s.cfg.numerics r = .error (.unknownCode code)) :
    step s = .next ((s.withPort rest).refuseCode code) := by
  have hbusy : s.busy = false := State.busy_eq_false_of_idle hfsm
  have found : s.found = .unknown code (s.withPort rest) := by simp [State.found, hreset, hop, hbusy, hport, hdecode]
  rw [step, found]

/-- Settles O6: the code is the error of the decoder, and the step raises it behind the taking of the request. -/
theorem unknownCodeIsRefused : Obligations.UnknownCodeIsRefused := by
  intro s code operands rest hreset hop hfsm hport hcode
  rw [step_of_unknownCode hreset hop hfsm hport (decodeCommand_of_code_not_mem hcode _ operands)]
  exact congrArg _ (State.begin_raise (s := s.withPort rest) hfsm ..)

/-! ### The port of a busy core (R246) -/

section
variable (p : List Request)

theorem State.busRead_withPort {s : State} {a : Addr} {n : Nat} {k : List Byte → State → State}
    (hk : ∀ x e, k x ((s.withPort p).withEnv e) = (k x (s.withEnv e)).withPort p) :
    (s.withPort p).busRead a n k = (s.busRead a n k).withPort p := by
  simp only [State.busRead, State.withPort_env, State.withPort_cfg]
  split
  · exact hk ..
  · rfl

theorem State.busWrite_withPort (s : State) (a : Addr) (v : Byte) (r : Running) :
    ((s.withPort p).busWrite a v fun u => u.goOn r) = (s.busWrite a v fun u => u.goOn r).withPort p := by
  simp only [State.busWrite, State.withPort_env, State.withPort_cfg]
  split <;> rfl

/-- A position does the same whatever stands on the port. -/
theorem Micro.run_withPort (m : Micro) (r : Running) (s : State) :
    m.run r (s.withPort p) = (m.run r s).withPort p := by
  cases m <;> simp only [Micro.run]
  case stopRd | startRd | rangeRd | regRd | byteRd | axisRd => exact State.busRead_withPort p fun _ _ => rfl
  case stopWr | startWr | rangeWr | filterWr | regWr => exact State.busWrite_withPort p s _ _ r
  case commitRange | commitFilter | enterReading | accumulate | pollSleep => rfl
  case waitBegin =>
    simp only [State.setElapsed_cfg, State.withPort_cfg]
    split <;> rfl
  case poll timeout =>
    simp only [State.withPort_env, State.withPort_cfg, State.withPort_elapsed]
    split
    case h_3 => by_cases hlast : timeout ≤ s.elapsed <;> simp only [hlast, if_true, if_false] <;> rfl
    all_goals rfl
  case fifoX =>
    refine State.busRead_withPort p (s := s.setSlot .x) fun x e => ?_
    split <;> rfl
  case fifoY => exact State.busRead_withPort p (s := s.setSlot .y) fun _ _ => rfl
  case fifoZ => exact State.busRead_withPort p (s := s.setSlot .z) fun _ _ => rfl
  case acqTest =>
    rw [State.withPort_acc]
    split <;> rfl

theorem State.tick_withPort (s : State) : (s.withPort p).tick = s.tick.withPort p := by
  simp only [State.tick, State.withPort_op]
  split
  · rfl
  · split
    · rfl
    · exact Micro.run_withPort ..

theorem State.run_withPort (k : Nat) (s : State) : State.run k (s.withPort p) = (State.run k s).withPort p := by
  induction k generalizing s with
  | zero => rfl
  | succ k ih => rw [State.run_succ, State.tick_withPort, ih, State.run_succ]

end

/-- A busy core takes no operation, whichever is presented (R246). -/
theorem exec_busy (i : Instr) {s : State} (h : s.fsm ≠ .idle) : exec i s = .next s := by
  obtain ⟨k, hk⟩ := exec_eq_accept i s
  rw [hk, State.accept_busy h]

/-- Settles O7: a busy core accepts nothing, and the run of the operation in progress commutes with any change of the
port. -/
theorem busyPortHasNoEffect : Obligations.BusyPortHasNoEffect := by
  refine ⟨fun i s => exec_busy i, fun s r p hreset hop => ?_⟩
  have hsome : s.op ≠ none := by simp [hop]
  obtain ⟨-, hport, -, -⟩ := State.run_inputs s.fuel s
  refine ⟨s.resume, step_of_op_ne_none hreset hsome, hport, ?_⟩
  calc step (s.withPort p) = .next (s.withPort p).resume := step_of_op_ne_none (s := s.withPort p) hreset hsome
    _ = .next (s.resume.withPort p) := congrArg _ (State.run_withPort p s.fuel s)

end Sys2Proof.Machine
end

section
/-! SUPPORT. Which calls of an operation can have failed (R61, R235, R242, R243): a position makes one call at most, and it
ends the operation with `TransportError` exactly when that call failed. -/

namespace Sys2Proof.Machine

/-- The operation has ended with `TransportError` (R235). -/
def State.TransportFailed (t : State) : Prop := t.op = none ∧ t.err = .transportError

/-- What the calls can have been that led from `e` to the core `t`: none failed and neither did the operation, or the last
one failed and ended the operation. -/
inductive Env.FailsLast (e : Env) (t : State) : Prop
  | unfailed {l : List Event} (history : t.env.history = e.history ++ l) (before : ∀ ev ∈ l, ev.failed = false)
      (goes : ¬ t.TransportFailed)
  | failed {l : List Event} {ev : Event} (history : t.env.history = e.history ++ (l ++ [ev]))
      (before : ∀ ev ∈ l, ev.failed = false) (last : ev.failed = true) (ended : t.TransportFailed)

section
variable {e : Env} {s t : State}

/-- No call made. -/
theorem Env.failsLast_of_env_eq (henv : t.env = e) (h : ¬ t.TransportFailed) : e.FailsLast t :=
  .unfailed (l := []) (by rw [henv, List.append_nil]) nofun h

/-- One call made, which failed exactly when the operation has ended with `TransportError`. -/
theorem Env.failsLast_of_call {ev : Event} (history : t.env.history = e.history ++ [ev])
    (h : ev.failed = true ↔ t.TransportFailed) : e.FailsLast t := by
  by_cases hev : ev.failed = true
  · exact .failed (l := []) history nofun hev (h.mp hev)
  · exact .unfailed history (by simpa using hev) fun ht => hev (h.mpr ht)

/-- The calls of an operation and those of its going on. -/
theorem Env.FailsLast.trans (h : e.FailsLast s) (hs : ¬ s.TransportFailed) (h' : s.env.FailsLast t) : e.FailsLast t := by
  cases h with
  | failed _ _ _ ended => exact absurd ended hs
  | @unfailed l history before =>
    cases h' with
    | @unfailed l' history' before' goes =>
      refine .unfailed (l := l ++ l') ?_ (List.forall_mem_append.mpr ⟨before, before'⟩) goes
      rw [history', history, List.append_assoc]
    | @failed l' ev history' before' last ended =>
      refine .failed (l := l ++ l') (ev := ev) ?_ (List.forall_mem_append.mpr ⟨before, before'⟩) last ended
      rw [history', history, List.append_assoc, List.append_assoc]

/-- No call but the last failed, and that exactly when the operation has ended with `TransportError`. -/
theorem Env.FailsLast.exists_history (h : e.FailsLast t) : ∃ l, t.env.history = e.history ++ l ∧
    (∀ ev ∈ l.dropLast, ev.failed = false) ∧
    (t.TransportFailed ↔ ∃ ev, l.getLast? = some ev ∧ ev.failed = true) := by
  cases h with
  | @unfailed l history before goes =>
    refine ⟨l, history, fun ev hev => before ev (List.mem_of_mem_dropLast hev), iff_of_false goes ?_⟩
    rintro ⟨ev, hlast, hev⟩
    simp [before ev (List.mem_of_getLast? hlast)] at hev
  | @failed l ev history before last ended =>
    refine ⟨l ++ [ev], history, ?_, iff_of_true ended ⟨ev, List.getLast?_concat, last⟩⟩
    rwa [List.dropLast_concat]

end

/-! ### Where an operation has not failed -/

theorem State.not_transportFailed_goOn (s : State) (r : Running) : ¬ (s.goOn r).TransportFailed := nofun

theorem State.not_transportFailed_deliver (s : State) (v : Result) : ¬ (s.deliver v).TransportFailed := nofun

theorem State.transportFailed_raise_iff {s : State} {code : ErrCode} {info : ErrInfo} :
    (s.raise code info).TransportFailed ↔ code = .transportError := by
  simp [State.TransportFailed]

/-- A raise of the core's own, with no call. -/
theorem State.failsLast_raise (s : State) {code : ErrCode} (h : code ≠ .transportError) (info : ErrInfo) :
    s.env.FailsLast (s.raise code info) :=
  Env.failsLast_of_env_eq rfl (mt State.transportFailed_raise_iff.mp h)

theorem State.failsLast_deliver (s : State) (v : Result) : s.env.FailsLast (s.deliver v) :=
  Env.failsLast_of_env_eq rfl (s.not_transportFailed_deliver v)

theorem State.failsLast_goOn {u : State} {e : Env} (henv : u.env = e) (r : Running) : e.FailsLast (u.goOn r) :=
  Env.failsLast_of_env_eq henv (u.not_transportFailed_goOn r)

/-! ### One call (R60 to R67) -/

section
variable {m : RegMap} {e e' : Env} {a : Addr}

/-- A register read of at least one byte is one call, failed exactly when the read is answered with an error. -/
theorem Env.regRead_call {n : Nat} (hn : n ≠ 0) {x : Except Raise (List Byte)} (h : e.regRead m a n = (e', x)) :
    ∃ ev : Event, e'.history = e.history ++ [ev] ∧ ev.failed = !x.isOk := by
  have history := Env.transfer_history m e (readFrame a n)
  rcases htransfer : e.transfer m (readFrame a n) with ⟨e₁, resp | k⟩ <;> rw [htransfer] at history
  case respond =>
    by_cases hlen : resp.length = n + 1
    · obtain ⟨b, p, rfl⟩ := List.exists_cons_of_length_eq_add_one hlen
      have hp : p.length = n := Nat.succ.inj hlen
      cases (Env.regRead_of_respond hn htransfer hp).symm.trans h
      exact ⟨_, history, by simp [Event.failed, readFrame, hp, Except.isOk, Except.toBool]⟩
    · cases (Env.regRead_of_wrong_length hn htransfer hlen).symm.trans h
      exact ⟨_, history, by simp [Event.failed, readFrame, hlen, Except.isOk, Except.toBool]⟩
  case fail =>
    cases (Env.regRead_of_fail hn htransfer).symm.trans h
    exact ⟨_, history, rfl⟩

/-- A register write is one call, failed exactly when the write is answered with an error. -/
theorem Env.regWrite_call {v : Byte} {x : Except Raise Unit} (h : e.regWrite m a v = (e', x)) :
    ∃ ev : Event, e'.history = e.history ++ [ev] ∧ ev.failed = !x.isOk := by
  have history := Env.transfer_history m e (writeFrame a v)
  rcases htransfer : e.transfer m (writeFrame a v) with ⟨e₁, resp | k⟩ <;> rw [htransfer] at history
  case respond =>
    by_cases hlen : resp.length = 2
    · cases (Env.regWrite_of_respond htransfer hlen).symm.trans h
      exact ⟨_, history, by simp [Event.failed, writeFrame, hlen, Except.isOk, Except.toBool]⟩
    · cases (Env.regWrite_of_wrong_length htransfer hlen).symm.trans h
      exact ⟨_, history, by simp [Event.failed, writeFrame, hlen, Except.isOk, Except.toBool]⟩
  case fail =>
    cases (Env.regWrite_of_fail htransfer).symm.trans h
    exact ⟨_, history, rfl⟩

end

/-! ### One position -/

section
variable {s u : State} {a : Addr}

/-- A position with a register read, which goes on with no other call when the read is answered. -/
theorem Env.failsLast_busRead {n : Nat} {k : List Byte → State → State} (henv : u.env = s.env)
    (hk : ∀ p v, ∃ (w : State) (r : Running), k p v = w.goOn r ∧ w.env = v.env) : s.env.FailsLast (u.busRead a n k) := by
  rw [← henv]
  refine State.busRead_cases (fun e p h => ?_) fun e x h => ?_
  · obtain ⟨hn, -⟩ := Env.regRead_ok h
    obtain ⟨ev, history, hev⟩ := Env.regRead_call hn h
    obtain ⟨w, r, hw, hwenv⟩ := hk p (u.withEnv e)
    rw [hw]
    refine Env.failsLast_of_call (ev := ev) ?_
      (iff_of_false (by simp [hev, Except.isOk, Except.toBool]) (w.not_transportFailed_goOn r))
    rw [State.goOn_env, hwenv, State.withEnv_env, history]
  · rcases Env.regRead_error h with ⟨-, rfl, rfl⟩ | ⟨hn, hx⟩
    · exact Env.failsLast_of_env_eq rfl (by simp [State.transportFailed_raise_iff])
    · obtain ⟨ev, history, hev⟩ := Env.regRead_call hn h
      exact Env.failsLast_of_call (ev := ev) history (iff_of_true hev (State.transportFailed_raise_iff.mpr hx))

/-- A position with a register write. -/
theorem Env.failsLast_busWrite {v : Byte} {r : Running} : s.env.FailsLast (s.busWrite a v fun u => u.goOn r) := by
  refine State.busWrite_cases (fun e h => ?_) fun e x h => ?_ <;> obtain ⟨ev, history, hev⟩ := Env.regWrite_call h
  · exact Env.failsLast_of_call (ev := ev) history
      (iff_of_false (by simp [hev, Except.isOk, Except.toBool]) (State.not_transportFailed_goOn _ _))
  · exact Env.failsLast_of_call (ev := ev) history
      (iff_of_true hev (State.transportFailed_raise_iff.mpr (Env.regWrite_error h)))

/-- A position that sleeps and goes on. -/
theorem Env.failsLast_sleep {t : Ticks} {r : Running} (h : u.env = s.env.sleep t) : s.env.FailsLast (u.goOn r) :=
  Env.failsLast_of_call (ev := .sleep t) (by rw [State.goOn_env, h, Env.sleep_history])
    (iff_of_false nofun (State.not_transportFailed_goOn _ _))

end

/-- A sample of the ready line and the tests on it: only a failed sample is `TransportError` (R190, R235). -/
theorem Micro.poll_failsLast (timeout : Ticks) (r : Running) (s : State) :
    s.env.FailsLast ((Micro.poll timeout).run r s) := by
  have history := Env.digitalRead_history s.env (s.cfg.drdyPin.getD 0)
  rw [Micro.run]
  split
  case _ e i h =>
    rw [h] at history
    exact Env.failsLast_of_call history (iff_of_true rfl (State.transportFailed_raise_iff.mpr rfl))
  case _ e h =>
    rw [h] at history
    exact Env.failsLast_of_call history (iff_of_false nofun (State.not_transportFailed_goOn _ _))
  case _ e h =>
    rw [h] at history
    split
    · exact Env.failsLast_of_call history (iff_of_false nofun (by simp [State.transportFailed_raise_iff]))
    · exact Env.failsLast_of_call history (iff_of_false nofun (State.not_transportFailed_goOn _ _))

/-- A position makes one call at most, and ends the operation with `TransportError` exactly when that call failed. -/
theorem Micro.run_failsLast (m : Micro) (r : Running) (s : State) : s.env.FailsLast (m.run r s) := by
  cases m
  case poll timeout => exact Micro.poll_failsLast timeout r s
  all_goals rw [Micro.run]
  case stopRd | startRd | rangeRd | regRd | byteRd | axisRd | fifoY | fifoZ =>
    exact Env.failsLast_busRead rfl fun _ _ => ⟨_, _, rfl, rfl⟩
  case fifoX =>
    refine Env.failsLast_busRead rfl fun _ _ => ?_
    dsimp only
    split <;> exact ⟨_, _, rfl, rfl⟩
  case stopWr | startWr | rangeWr | filterWr | regWr => exact Env.failsLast_busWrite
  case commitRange | commitFilter | enterReading | accumulate => exact State.failsLast_goOn (by rfl) _
  case waitBegin =>
    split
    · exact Env.failsLast_sleep rfl
    · exact State.failsLast_goOn (by rfl) _
  case pollSleep => exact Env.failsLast_sleep rfl
  case acqTest => split <;> exact State.failsLast_goOn (by rfl) _

/-! ### A run -/

theorem Env.FailsLast.tick {e : Env} {t : State} (h : e.FailsLast t) : e.FailsLast t.tick := by
  cases hop : t.op with
  | none => exact (State.tick_none hop).symm ▸ h
  | some r =>
    have goes : ¬ t.TransportFailed := fun ⟨hnone, _⟩ => by simp [hop] at hnone
    refine h.trans goes ?_
    cases htodo : r.todo with
    | nil => exact State.tick_nil hop htodo ▸ State.failsLast_deliver ..
    | cons m rest => exact State.tick_cons hop htodo ▸ Micro.run_failsLast ..

section
variable (s : State) (i : Instr)

theorem State.failsLast_launch (f : Fsm) (todo : List Micro) (finish : Finish) :
    s.env.FailsLast (s.launch i f todo finish) :=
  State.run_keeps (P := s.env.FailsLast) (fun _ h => h.tick) s.fuel (State.failsLast_goOn (u := s.setFsm f) rfl _)

theorem State.failsLast_registerRead (a : Addr) (n : Nat) : s.env.FailsLast (s.registerRead i a n) := by
  rw [State.registerRead]
  split
  · exact State.failsLast_raise s (by decide) _
  · exact State.failsLast_launch ..

theorem State.failsLast_acquire (n : Nat) (finish : Finish) : s.env.FailsLast (s.acquire i n finish) := by
  rw [State.acquire]
  split
  · exact State.failsLast_deliver (s.setAcc []) _
  · exact State.failsLast_launch (s.setAcc []) ..

end

/-! ### The operations -/

/-- An idle core does what the operation does behind the clearing of `WARN`, which is no call (R237). -/
theorem State.failsLast_accept {s t : State} {k : State → State} (hidle : s.fsm = .idle) (h : s.accept k = .next t)
    (hk : ∀ u : State, u.env.FailsLast (k u)) : s.env.FailsLast t := by
  rw [State.accept_idle hidle, Host.Outcome.next.injEq] at h
  exact h ▸ hk s.begin

/-- Every operation that an idle core takes: the raises before its first call are none of them `TransportError` (R245). -/
theorem exec_failsLast {i : Instr} {s t : State} (hidle : s.fsm = .idle) (h : exec i s = .next t) :
    s.env.FailsLast t := by
  cases i <;> rw [exec] at h <;> refine State.failsLast_accept hidle h fun u => ?_
  case encWr | decRaw20 | sext20 | toG => exact State.failsLast_deliver ..
  case start | stop | identify | status | waitReady | drainFifo | rdAxisTriplet | rdTripletRaw | frameWr | wrFilter |
      wrRange | wrPowerCtl =>
    exact State.failsLast_launch ..
  case frameRd | rd1DevidAd | rd1DevidMst | rd1Partid | rd1Status | rd3Xdata | rd3Ydata | rd3Zdata | rd3FifoData |
      rd1Range | rd1PowerCtl =>
    exact State.failsLast_registerRead ..
  case acqN | rdBurstRaw => exact State.failsLast_acquire ..
  case encRd a n =>
    cases n with
    | zero => exact State.failsLast_raise u (by decide) .length
    | succ n => exact State.failsLast_deliver u (.bytes (readFrame a (n + 1)))
  case decRsp raw =>
    cases raw with
    | nil => exact State.failsLast_raise u (by decide) .empty
    | cons b l => exact State.failsLast_deliver u (.bytes l)
  case regRd =>
    split
    · exact State.failsLast_raise u (by decide) _
    · split
      · exact State.failsLast_registerRead ..
      · exact State.failsLast_raise u (by decide) _
  case regWr =>
    split
    · exact State.failsLast_launch ..
    · exact State.failsLast_raise u (by decide) _
  case setRange | rdAxisRaw | rdTripletG =>
    split
    · exact State.failsLast_raise u (by decide) _
    · exact State.failsLast_launch ..
  case setFilter =>
    split
    · exact State.failsLast_raise u (by decide) _
    · split
      · exact State.failsLast_raise u (by decide) _
      · exact State.failsLast_launch ..
  case configure =>
    split
    · exact State.failsLast_raise u (by decide) _
    · split
      · exact State.failsLast_raise u (by decide) _
      · split
        · exact State.failsLast_raise u (by decide) _
        · exact State.failsLast_launch ..
  case rdBurstG =>
    split
    · exact State.failsLast_raise u (by decide) _
    · exact State.failsLast_acquire ..

/-- Settles O16: every position keeps what the calls can have been, and so does the start of every operation. -/
theorem failedCallIsTheLast : Obligations.FailedCallIsTheLast := fun _ _ _ hidle h =>
  (exec_failsLast hidle h).exists_history

end Sys2Proof.Machine
end

section
/-! SUPPORT. The reset event (R47, R260): the step it makes, register by register. -/

namespace Sys2Proof.Machine

/-- Settles O8: with the reset input up a step is the reset event, whatever is in progress, and each register is what the
laws of that event say. -/
theorem resetEvent : Obligations.ResetEvent := fun s hreset =>
  ⟨s.applyReset, step_of_resetIn hreset, s.applyReset_rangeSel, s.applyReset_odrSel, s.applyReset_hpfSel,
    s.applyReset_scale, s.applyReset_acc, s.applyReset_slot, s.applyReset_elapsed, s.applyReset_op, s.applyReset_fsm,
    s.applyReset_err, s.applyReset_warn, s.applyReset_env, s.applyReset_cfg, s.applyReset_resetIn⟩

end Sys2Proof.Machine
end
